-- ==== Sys2Proof/Word.lean ====
section
/-!
DEFINITION. The widths of the codec block's values (spec/00_scope.md R9, spec/10_state.md): bytes, 16-bit fields
and 40-bit command words. All values are unsigned.
-/

namespace Sys2Proof

/-- A byte: one unit of the RX and TX streams (R68). -/
abbrev Byte := BitVec 8

/-- A 16-bit field: function id, length, RC channel value (R63, R66). -/
abbrev Half := BitVec 16

/-- A command word of the command port: `OP = w[39:32]`, `ARG = w[31:0]` (R95). -/
abbrev CmdWord := BitVec 40

end Sys2Proof
end

