-- ==== Sys2Proof/Machine/Params.lean ====
section
/-!
DEFINITION. The fixed values of the block (00_scope.md R7, 30_encoding.md R81, R87) and the byte order of its 16-bit
fields (R10, R63).
-/

namespace Sys2Proof.Machine

/-- The CRC polynomial constant, `x^8` left out (R7, R120). -/
def crcPoly : Byte := 0xD5#8

/-- The CRC accumulator's initial value (R7, R121). -/
def crcInit : Byte := 0x00#8

/-- TAIL_CAP, the capacity of DEC_TAIL (R7, R31). -/
def tailCap : Nat := 64

/-- The capacity of DEC_PAYLOAD in bytes (R7, R34). -/
def payloadCap : Nat := 65535

/-- The RC centre value 1500 (R7, R39). -/
def rcCentre : Half := 0x05DC#16

/-- `$X<` as bytes (R81; PRESUMED: the ASCII code, log 13). -/
def requestPreamble : List Byte := [0x24#8, 0x58#8, 0x3C#8]

/-- `$X>` as bytes (R81; PRESUMED: the ASCII code, log 13). -/
def responsePreamble : List Byte := [0x24#8, 0x58#8, 0x3E#8]

/-- The function identifiers of R87. -/
def fidStatusId : Half := 101#16
def fidRawImuId : Half := 102#16
def fidRcId : Half := 105#16
def fidGpsId : Half := 107#16
def fidAltitudeId : Half := 109#16
def fidSetRawRcId : Half := 200#16

/-- `le16(v)`: the two bytes of a 16-bit field, least significant first (R10, R63). -/
def le16 (v : Half) : List Byte := [v.extractLsb' 0 8, v.extractLsb' 8 8]

/-- `from_le16(lo, hi) = lo | (hi << 8)` (R10). -/
def fromLe16 (lo hi : Byte) : Half := hi ++ lo

/-- `last_n(s, n)`: the last `min(n, len(s))` bytes of `s` (R10). -/
def lastN (l : List Byte) (n : Nat) : List Byte := l.drop (l.length - n)

end Sys2Proof.Machine
end

