-- ==== Sys2Proof/Machine/Crc.lean ====
section
/-!
DEFINITION. The CRC-8/DVB-S2 function (40_crc.md R120, R121): non-reflected, most significant bit first, no final XOR
(90_conflicts.md C1).
-/

namespace Sys2Proof.Machine

/-- One round of R120: shift left by one, XOR the polynomial when bit 7 was set; the width masks to 8 bits. -/
def crcRound (a : Byte) : Byte :=
  if a.getLsbD 7 then (a <<< 1) ^^^ crcPoly else a <<< 1

/-- `crc8_update(acc, b)`: XOR the byte in, then eight rounds (R120). -/
def crc8Update (acc b : Byte) : Byte := Nat.repeat crcRound 8 (acc ^^^ b)

/-- The fold of R120 over a byte sequence from a given accumulator (R121, R124 law 1). -/
def crc8From (acc : Byte) (s : List Byte) : Byte := s.foldl crc8Update acc

/-- `crc8(s)` (R121). -/
def crc8 (s : List Byte) : Byte := crc8From crcInit s

end Sys2Proof.Machine
end

