-- ==== Sys2Proof/Config.lean ====
section
/-!
DEFINITION. The open parameters of the block (00_scope.md R8): the deadlines of the three decode phases. They have no
body: no proof can learn their value, so a claim holds whatever they are. They bound only when a Timeout may arrive
and change no value the block computes (R8). The source's default is 1.0 s for each (log 10).
-/

namespace Sys2Proof.Config

/-- T_SCAN, the deadline of the preamble scan, in the unit of the `elapse` event (R8, R177; log 10). -/
opaque tScan : Nat

/-- T_HDR, the deadline of the header read, in the unit of the `elapse` event (R8, R177; log 10). -/
opaque tHdr : Nat

/-- T_BODY, the deadline of the body read, in the unit of the `elapse` event (R8, R177; log 10). -/
opaque tBody : Nat

end Sys2Proof.Config
end

