-- ==== Sys2Proof/Syntax.lean ====
section
/-!
DEFINITION. The instructions: one constructor per row of spec/opcode_table.json. The first eleven are the commands of
30_encoding.md R97 with the operand fields of R96. The last eight are the table's frame rows (R87, R81), which the table
itself marks "not a command": they are data on the wire (log 3).
-/

namespace Sys2Proof

/-- One constructor per row of the opcode table, operands at the widths of R96. -/
inductive Instr where
  /-- NOP (R210). -/
  | nop
  /-- CRC_CLR (R122). -/
  | crcClr
  /-- CRC_BYTE b (R123). -/
  | crcByte (b : Byte)
  /-- ENC_START fid, len (R140). -/
  | encStart (fid len : Half)
  /-- ENC_DATA b (R141). -/
  | encData (b : Byte)
  /-- ENC_RC (R142). -/
  | encRc
  /-- DEC_START fid (R164). -/
  | decStart (fid : Half)
  /-- RC_SET index, value (R202). -/
  | rcSet (index : BitVec 4) (value : Half)
  /-- RC_LOAD_BEGIN (R203). -/
  | rcLoadBegin
  /-- RC_LOAD_VAL value (R204). -/
  | rcLoadVal (value : Half)
  /-- RC_LOAD_END (R205). -/
  | rcLoadEnd
  /-- FID_STATUS, 101 on the wire (R87). -/
  | fidStatus
  /-- FID_RAW_IMU, 102 on the wire (R87). -/
  | fidRawImu
  /-- FID_RC, 105 on the wire (R87). -/
  | fidRc
  /-- FID_GPS, 107 on the wire (R87). -/
  | fidGps
  /-- FID_ALTITUDE, 109 on the wire (R87). -/
  | fidAltitude
  /-- FID_SET_RAW_RC, 200 on the wire (R87). -/
  | fidSetRawRc
  /-- PREAMBLE_REQUEST, `24 58 3C` on the wire (R81). -/
  | preambleRequest
  /-- PREAMBLE_RESPONSE, `24 58 3E` on the wire (R81). -/
  | preambleResponse
  deriving DecidableEq, Repr

end Sys2Proof
end

