-- ==== Sys2Proof/Decode.lean ====
section
/-!
DEFINITION. Decoding and encoding. The command port takes a 40-bit word (30_encoding.md R95 to R98); the frame rows of
the opcode table are two or three bytes in stream order (R81, R87). Every word is decoded to an instruction or rejected
by name; no bit of a word is dropped.
-/

namespace Sys2Proof

open Sys2Proof.Machine

/-! ### Opcodes (R97) -/

/-- The OP byte of each command (R97). -/
def Opcode.nop : Byte := 0x00#8
def Opcode.crcClr : Byte := 0x01#8
def Opcode.crcByte : Byte := 0x02#8
def Opcode.encStart : Byte := 0x10#8
def Opcode.encData : Byte := 0x11#8
def Opcode.encRc : Byte := 0x12#8
def Opcode.decStart : Byte := 0x20#8
def Opcode.rcSet : Byte := 0x30#8
def Opcode.rcLoadBegin : Byte := 0x31#8
def Opcode.rcLoadVal : Byte := 0x32#8
def Opcode.rcLoadEnd : Byte := 0x33#8

/-- `OP = w[39:32]` (R95). -/
def opField (w : CmdWord) : Byte := w.extractLsb' 32 8

/-- `ARG = w[31:0]` (R95). -/
def argField (w : CmdWord) : BitVec 32 := w.extractLsb' 0 32

/-- Why a command word has no command (R98, steps 1 and 2). -/
inductive CmdReject where
  /-- OP is not in the table of R97. -/
  | reservedOpcode
  /-- A reserved bit of the command's format is 1 (R96). -/
  | reservedBits
  deriving DecidableEq, Repr

/-! ### Operand formats (R96): each answers the command, or reservedBits when a reserved bit of ARG is 1 -/

/-- Format N: no operand, ARG[31:0] reserved. -/
def formatN (arg : BitVec 32) (i : Instr) : Except CmdReject Instr :=
  if arg = 0#32 then .ok i else .error .reservedBits

/-- Format B: `b = ARG[7:0]`, ARG[31:8] reserved. -/
def formatB (arg : BitVec 32) (mk : Byte → Instr) : Except CmdReject Instr :=
  if arg.extractLsb' 8 24 = 0#24 then .ok (mk (arg.extractLsb' 0 8)) else .error .reservedBits

/-- Format FL: `fid = ARG[15:0]`, `len = ARG[31:16]`, nothing reserved. -/
def formatFL (arg : BitVec 32) (mk : Half → Half → Instr) : Except CmdReject Instr :=
  .ok (mk (arg.extractLsb' 0 16) (arg.extractLsb' 16 16))

/-- Formats F and V: one 16-bit field `ARG[15:0]`, ARG[31:16] reserved. -/
def formatHalf (arg : BitVec 32) (mk : Half → Instr) : Except CmdReject Instr :=
  if arg.extractLsb' 16 16 = 0#16 then .ok (mk (arg.extractLsb' 0 16)) else .error .reservedBits

/-- Format IV: `value = ARG[15:0]`, `index = ARG[19:16]`, ARG[31:20] reserved. -/
def formatIV (arg : BitVec 32) (mk : BitVec 4 → Half → Instr) : Except CmdReject Instr :=
  if arg.extractLsb' 20 12 = 0#12 then .ok (mk (arg.extractLsb' 16 4) (arg.extractLsb' 0 16))
  else .error .reservedBits

/-- Decoding a command word in R98's order: the opcode, then the reserved bits. -/
def decodeCommand (w : CmdWord) : Except CmdReject Instr :=
  let op := opField w
  let arg := argField w
  if op = Opcode.nop then formatN arg .nop
  else if op = Opcode.crcClr then formatN arg .crcClr
  else if op = Opcode.crcByte then formatB arg .crcByte
  else if op = Opcode.encStart then formatFL arg .encStart
  else if op = Opcode.encData then formatB arg .encData
  else if op = Opcode.encRc then formatN arg .encRc
  else if op = Opcode.decStart then formatHalf arg .decStart
  else if op = Opcode.rcSet then formatIV arg .rcSet
  else if op = Opcode.rcLoadBegin then formatN arg .rcLoadBegin
  else if op = Opcode.rcLoadVal then formatHalf arg .rcLoadVal
  else if op = Opcode.rcLoadEnd then formatN arg .rcLoadEnd
  else .error .reservedOpcode

/-! ### The frame rows of the table (R81, R87): bytes on the wire -/

/-- The row a 16-bit function id stands for (R87). Any other id is plain data (R84). -/
def decodeFid (v : Half) : Option Instr :=
  if v = fidStatusId then some .fidStatus
  else if v = fidRawImuId then some .fidRawImu
  else if v = fidRcId then some .fidRc
  else if v = fidGpsId then some .fidGps
  else if v = fidAltitudeId then some .fidAltitude
  else if v = fidSetRawRcId then some .fidSetRawRc
  else none

/-- The row three bytes in stream order stand for (R81). -/
def decodePreamble (bs : List Byte) : Option Instr :=
  if bs = requestPreamble then some .preambleRequest
  else if bs = responsePreamble then some .preambleResponse
  else none

/-- The table row a byte sequence on the wire is: two bytes are a little-endian function id (R63, R87), three bytes a
preamble (R81). Any other sequence is no row of the table: plain bytes (R84, R91). -/
def decodeWire (bs : List Byte) : Option Instr :=
  match bs with
  | [lo, hi] => decodeFid (fromLe16 lo hi)
  | [a, b, c] => decodePreamble [a, b, c]
  | _ => none

/-! ### The two encoding spaces and the encoder -/

/-- What an instruction's encoding is: a word of the command port, or bytes on the wire in stream order. -/
inductive Encoding where
  | command (w : CmdWord)
  | wire (bs : List Byte)
  deriving DecidableEq, Repr

/-- The decoder over both spaces. -/
def decode (e : Encoding) : Option Instr :=
  match e with
  | .command w => (decodeCommand w).toOption
  | .wire bs => decodeWire bs

/-- `OP << 32 | ARG` (R95). -/
def commandWord (op : Byte) (arg : BitVec 32) : CmdWord := op ++ arg

/-- ARG of format B (R96). -/
def argB (b : Byte) : BitVec 32 := 0#24 ++ b

/-- ARG of format FL (R96). -/
def argFL (fid len : Half) : BitVec 32 := len ++ fid

/-- ARG of formats F and V (R96). -/
def argHalf (v : Half) : BitVec 32 := 0#16 ++ v

/-- ARG of format IV (R96). -/
def argIV (index : BitVec 4) (value : Half) : BitVec 32 := (0#12 ++ index) ++ value

/-- The encoder, from the encoding lines of the instructions' rules (R96, R97; R81 and R87 for the frame rows). -/
def encode (i : Instr) : Encoding :=
  match i with
  | .nop => .command (commandWord Opcode.nop 0#32)
  | .crcClr => .command (commandWord Opcode.crcClr 0#32)
  | .crcByte b => .command (commandWord Opcode.crcByte (argB b))
  | .encStart fid len => .command (commandWord Opcode.encStart (argFL fid len))
  | .encData b => .command (commandWord Opcode.encData (argB b))
  | .encRc => .command (commandWord Opcode.encRc 0#32)
  | .decStart fid => .command (commandWord Opcode.decStart (argHalf fid))
  | .rcSet index value => .command (commandWord Opcode.rcSet (argIV index value))
  | .rcLoadBegin => .command (commandWord Opcode.rcLoadBegin 0#32)
  | .rcLoadVal value => .command (commandWord Opcode.rcLoadVal (argHalf value))
  | .rcLoadEnd => .command (commandWord Opcode.rcLoadEnd 0#32)
  | .fidStatus => .wire (le16 fidStatusId)
  | .fidRawImu => .wire (le16 fidRawImuId)
  | .fidRc => .wire (le16 fidRcId)
  | .fidGps => .wire (le16 fidGpsId)
  | .fidAltitude => .wire (le16 fidAltitudeId)
  | .fidSetRawRc => .wire (le16 fidSetRawRcId)
  | .preambleRequest => .wire requestPreamble
  | .preambleResponse => .wire responsePreamble

/-! ### Words as the opcode table numbers them (log 12) -/

/-- The three bytes of a 24-bit row in stream order: the table writes `24 58 3C` as 0x24583C (R81; log 12). -/
def preambleBytes (w : BitVec 24) : List Byte :=
  [w.extractLsb' 16 8, w.extractLsb' 8 8, w.extractLsb' 0 8]

/-- A word of the opcode table as an encoding: 16 bits are a function id, 24 bits a preamble, all else a command word
(the table's rows are 40, 16 and 24 bits wide; log 12). -/
def tableWord (nbits w : Nat) : Encoding :=
  if nbits = 16 then .wire (le16 (BitVec.ofNat 16 w))
  else if nbits = 24 then .wire (preambleBytes (BitVec.ofNat 24 w))
  else .command (BitVec.ofNat 40 w)

/-- The instruction the decoder reads from a word numbered as spec/opcode_table.json numbers it. -/
def decodeTableWord (nbits w : Nat) : Option Instr := decode (tableWord nbits w)

end Sys2Proof
end

