-- ==== Sys2Proof/Machine/State.lean ====
section
/-!
DEFINITION. The state of the codec block (10_state.md), the boundary streams (R43, R44), the decode deadline timer
(60_exceptions.md R241) and the schedule of events (00_scope.md R12; log 1), as plain data, with the state after reset
(70_reset_and_hazards.md R260, R263).
-/

namespace Sys2Proof.Machine

/-- DEC_STATE (R29). Codes 6 and 7 never occur, so the type does not hold them (I5; log 14). -/
inductive DecState where
  | idle
  | scanning
  | headerRead
  | headerComplete
  | bodyComplete
  | failed
  deriving DecidableEq, Repr

/-- DEC_FAIL_PHASE (R37). -/
inductive FailPhase where
  | none
  | scan
  | header
  | body
  deriving DecidableEq, Repr

/-- ILL_CAUSE (R42, R233). Code 7 is never produced, so the type does not hold it (I5; log 14). -/
inductive IllCause where
  | none
  | reservedOpcode
  | reservedBits
  | encoderBusy
  | encoderIdle
  | decoderBusy
  | loadState
  deriving DecidableEq, Repr

/-- What can happen to the block next (R12), with the environment's own actions on the RX stream and on time. -/
inductive Event where
  /-- `Cmd(w)`: a command word on the command port, any 40 bits (R12, R95). -/
  | cmd (w : CmdWord)
  /-- The bytes arrive on RX in stream order, and after each arrival one Rx event happens if it is enabled (R100's RX
  line; the frame rows of the opcode table; log 3, log 4). -/
  | wire (bs : List Byte)
  /-- A byte arrives on RX and stays pending (R44). -/
  | arrive (b : Byte)
  /-- `Rx(b)` for the first pending byte `b` (R12, R165). -/
  | rx
  /-- `Timeout` (R12, R176), at any point of an active phase (R177). -/
  | timeout
  /-- Time passes; the deadline timer raises `Timeout` when the phase's deadline is reached (R177, R241; log 10). -/
  | elapse (d : Nat)
  /-- `Reset` (R12, R260). -/
  | reset
  deriving DecidableEq, Repr

/-- The machine's state: one field per register or buffer of 10_state.md, then the boundary and the environment. -/
structure State where
  /-- CRC_ACC (R23). -/
  crcAcc : Byte
  /-- ENC_BUSY (R24). -/
  encBusy : Bool
  /-- ENC_FID (R25). -/
  encFid : Half
  /-- ENC_LEN (R26). -/
  encLen : Half
  /-- ENC_REMAIN (R27). -/
  encRemain : Half
  /-- ENC_CRC (R28). -/
  encCrc : Byte
  /-- DEC_STATE (R29). -/
  decState : DecState
  /-- DEC_EXPECT (R30). -/
  decExpect : Half
  /-- DEC_TAIL, oldest byte first (R31). -/
  decTail : List Byte
  /-- DEC_HDR[0..7] (R32). -/
  decHdr : Vector Byte 8
  /-- DEC_HCNT (R32). -/
  decHcnt : BitVec 4
  /-- DEC_FLAGS (R33). -/
  decFlags : Byte
  /-- DEC_FID (R33). -/
  decFid : Half
  /-- DEC_LEN (R33). -/
  decLen : Half
  /-- DEC_PAYLOAD[0..65534] as cells in canonical form: indices rising, no zero byte listed (R34; log 7). -/
  decPayload : List Host.Cell
  /-- DEC_PCNT (R34). -/
  decPcnt : Half
  /-- DEC_CRC_CALC (R35). -/
  decCrcCalc : Byte
  /-- DEC_CRC_RX (R35). -/
  decCrcRx : Byte
  /-- DEC_CRC_OK (R36). -/
  decCrcOk : Bool
  /-- DEC_FID_MATCH (R36). -/
  decFidMatch : Bool
  /-- DEC_STATUS_OK (R36). -/
  decStatusOk : Bool
  /-- DEC_FAIL_PHASE (R37). -/
  decFailPhase : FailPhase
  /-- RC[0..15] (R39). -/
  rc : Vector Half 16
  /-- RC_LOADING (R40). -/
  rcLoading : Bool
  /-- RC_LCNT (R40). -/
  rcLcnt : BitVec 5
  /-- RC_STAGE[0..15] (R41). -/
  rcStage : Vector Half 16
  /-- ILL (R42). -/
  ill : Bool
  /-- ILL_CAUSE (R42). -/
  illCause : IllCause
  /-- ILL_OP (R42). -/
  illOp : Byte
  /-- The TX stream: the history of emitted bytes, oldest first (R43). -/
  tx : List Byte
  /-- The pending bytes of the RX stream, next to be consumed first (R44; log 4). -/
  rx : List Byte
  /-- The deadline timer: time elapsed in the active phase, or none when disarmed (R241; log 10). -/
  timer : Option Nat
  /-- The events still to come, next first: the host's commands and the environment's inputs (R12; log 1). -/
  events : List Event
  deriving DecidableEq, Repr

/-- A step of this machine never faults: the block has no traps and carries on after every error (R236, R238), so the
spec gives no reason to stop and the type has no constructor. -/
inductive Fault where
  deriving DecidableEq, Repr

/-- Why an instruction may have no meaning. No arm of exec and no meaning of this model answers a refusal. -/
inductive Refusal where
  /-- The instruction has no meaning yet. Raised by no arm: every row of the table is modelled. Safe. -/
  | notModelled (mnemonic : String)
  deriving DecidableEq, Repr

/-- The state after reset and at power-on (R260, R263): every register at its reset value, TX empty. DEC_PAYLOAD and
RC_STAGE, which R260 leaves unspecified, are zero (I4; DESIGN CHOICE, log 7); nothing is pending on RX, the timer is
disarmed and no event is scheduled (DESIGN CHOICE, log 15). -/
def State.reset : State where
  crcAcc := 0x00#8
  encBusy := false
  encFid := 0#16
  encLen := 0#16
  encRemain := 0#16
  encCrc := 0x00#8
  decState := .idle
  decExpect := 0#16
  decTail := []
  decHdr := Vector.replicate 8 0x00#8
  decHcnt := 0#4
  decFlags := 0x00#8
  decFid := 0#16
  decLen := 0#16
  decPayload := []
  decPcnt := 0#16
  decCrcCalc := 0x00#8
  decCrcRx := 0x00#8
  decCrcOk := false
  decFidMatch := false
  decStatusOk := false
  decFailPhase := .none
  rc := Vector.replicate 16 rcCentre
  rcLoading := false
  rcLcnt := 0#5
  rcStage := Vector.replicate 16 0#16
  ill := false
  illCause := .none
  illOp := 0x00#8
  tx := []
  rx := []
  timer := none
  events := []

end Sys2Proof.Machine
end

