-- ==== Sys2Proof/Machine/Flags.lean ====
section
/-!
DEFINITION. The codes and flags of the block: DEC_STATE, DEC_FAIL_PHASE and ILL_CAUSE codes (R29, R37, R42), the result
flags (R36), the summary DEC_CAUSE (R38), the active phases (R160), their failure codes (R176) and deadlines (R177).
-/

namespace Sys2Proof.Machine

/-- The code of DEC_STATE (R29). -/
def DecState.code (d : DecState) : BitVec 3 :=
  match d with
  | .idle => 0#3
  | .scanning => 1#3
  | .headerRead => 2#3
  | .headerComplete => 3#3
  | .bodyComplete => 4#3
  | .failed => 5#3

/-- The code of DEC_FAIL_PHASE (R37). -/
def FailPhase.code (p : FailPhase) : BitVec 2 :=
  match p with
  | .none => 0#2
  | .scan => 1#2
  | .header => 2#2
  | .body => 3#2

/-- The code of ILL_CAUSE (R42, R233). -/
def IllCause.code (c : IllCause) : BitVec 3 :=
  match c with
  | .none => 0#3
  | .reservedOpcode => 1#3
  | .reservedBits => 2#3
  | .encoderBusy => 3#3
  | .encoderIdle => 4#3
  | .decoderBusy => 5#3
  | .loadState => 6#3

/-- The cause a decoding rejection is reported with (R98, R233). -/
def rejectCause (r : CmdReject) : IllCause :=
  match r with
  | .reservedOpcode => .reservedOpcode
  | .reservedBits => .reservedBits

/-- The active decode phases: Scanning, HeaderRead, HeaderComplete (R160). -/
def DecState.active (d : DecState) : Bool :=
  match d with
  | .scanning => true
  | .headerRead => true
  | .headerComplete => true
  | .idle => false
  | .bodyComplete => false
  | .failed => false

/-- The failure code of the phase a Timeout ends (R176). -/
def DecState.failPhase (d : DecState) : FailPhase :=
  match d with
  | .scanning => .scan
  | .headerRead => .header
  | .headerComplete => .body
  | .idle => .none
  | .bodyComplete => .none
  | .failed => .none

/-- The deadline of a phase, measured from its entry (R177); an inactive state has none. -/
def DecState.deadline (d : DecState) : Option Nat :=
  match d with
  | .scanning => some Config.tScan
  | .headerRead => some Config.tHdr
  | .headerComplete => some Config.tBody
  | .idle => none
  | .bodyComplete => none
  | .failed => none

/-- The result flags as the completed body sets them (R36, R169). -/
def State.setResultFlags (s : State) : State :=
  let crcOk := s.decCrcCalc == s.decCrcRx
  let fidMatch := s.decFid == s.decExpect
  { s with decCrcOk := crcOk, decFidMatch := fidMatch, decStatusOk := crcOk && fidMatch }

/-- DEC_CAUSE (R38): 0 None, 1 NoResponse, 2 ChecksumMismatch, 3 UnexpectedFunction, in R237's priority. -/
def State.decCause (s : State) : BitVec 2 :=
  match s.decState with
  | .failed => 1#2
  | .bodyComplete => if s.decCrcOk = false then 2#2 else if s.decFidMatch = false then 3#2 else 0#2
  | .idle => 0#2
  | .scanning => 0#2
  | .headerRead => 0#2
  | .headerComplete => 0#2

end Sys2Proof.Machine
end

