-- ==== Sys2Proof/Machine/Ops.lean ====
section
/-!
DEFINITION. The shared operations over the state: the payload buffer, the streams, the rejection of a command (R234,
the block's one error entry; nothing returns from it but Reset, R239), and the entry of a decode phase (R177, R241).
-/

namespace Sys2Proof.Machine

/-! ### The indexed byte buffer DEC_PAYLOAD (R34), in one canonical form -/

/-- The byte at an index; an index nothing has written reads 0 (I4; DESIGN CHOICE, log 7). -/
def Memory.read (m : List Host.Cell) (i : Nat) : Byte :=
  match m with
  | [] => 0x00#8
  | (j, c) :: rest => if i = j then c else Memory.read rest i

/-- Write one byte: cells stay in rising order, and a zero byte is not listed. -/
def Memory.write (m : List Host.Cell) (i : Nat) (b : Byte) : List Host.Cell :=
  match m with
  | [] => if b = 0x00#8 then [] else [(i, b)]
  | (j, c) :: rest =>
    if i < j then (if b = 0x00#8 then (j, c) :: rest else (i, b) :: (j, c) :: rest)
    else if i = j then (if b = 0x00#8 then rest else (i, b) :: rest)
    else (j, c) :: Memory.write rest i b

/-- The canonical form: strictly rising indices, all inside the buffer, no zero byte listed. -/
abbrev Memory.wf (m : List Host.Cell) : Prop :=
  m.Pairwise (fun a c => a.1 < c.1) ∧ ∀ c ∈ m, c.1 < payloadCap ∧ c.2 ≠ 0x00#8

/-- `DEC_PAYLOAD[0, n)` (R10). -/
def Memory.readBytes (m : List Host.Cell) (n : Nat) : List Byte := (List.range n).map (Memory.read m)

/-! ### The streams -/

/-- `Emit(s)`: append the bytes to TX, which takes them at once (R11, R62). -/
def State.emit (s : State) (bs : List Byte) : State := { s with tx := s.tx ++ bs }

/-- A byte arrives on RX and is pending behind the earlier ones (R44). -/
def State.arrive (s : State) (b : Byte) : State := { s with rx := s.rx ++ [b] }

/-! ### Rejecting a command -/

/-- `raise IllegalCommand(cause)` on a command whose OP is `op` (R234): nothing else changes. -/
def State.raiseIllegal (s : State) (cause : IllCause) (op : Byte) : State :=
  { s with ill := true, illCause := cause, illOp := op }

/-! ### Decode phases -/

/-- Enter a decode state: DEC_STATE takes it, and the deadline timer is re-armed for an active phase and disarmed
otherwise (R177, R241; log 10). -/
def State.enterPhase (s : State) (d : DecState) : State :=
  { s with decState := d, timer := if d.active then some 0 else none }

end Sys2Proof.Machine
end

