-- ==== Sys2Proof/Machine/Operands.lean ====
section
/-!
DEFINITION. The operand and frame forms the meanings share: the header region ENC emits (R80, R140), the checksum
region DEC checks (R85, R169), the indexed RC registers (R39, R202) and their serialization (R206).
-/

namespace Sys2Proof.Machine

/-- Flags, function id and length of a request: `frame[3, 8)` (R80, R82, R140). -/
def headerRegion (fid len : Half) : List Byte := [0x00#8] ++ le16 fid ++ le16 len

/-- `DEC_HDR[3, 8) ++ DEC_PAYLOAD[0, DEC_LEN)`: the region the decoder checks (R85, R169). -/
def State.checksumRegion (s : State) : List Byte :=
  s.decHdr.toList.drop 3 ++ Memory.readBytes s.decPayload s.decLen.toNat

/-- RC[index]: the 4-bit index names exactly RC[0] to RC[15] (R96). -/
def State.rcRead (s : State) (index : BitVec 4) : Half := s.rc[index.toNat]'index.isLt

/-- `RC[index] <- value`, any 16-bit value (R202, R208). -/
def State.rcWrite (s : State) (index : BitVec 4) (value : Half) : State :=
  { s with rc := s.rc.set index.toNat value index.isLt }

/-- `rc_serialize()`: RC[0] to RC[15] in index order, each little-endian, 32 bytes (R206). -/
def State.rcSerialize (s : State) : List Byte := s.rc.toList.flatMap le16

end Sys2Proof.Machine
end

