-- ==== Sys2Proof/Machine/Crcu.lean ====
section
/-!
DEFINITION. NOP (43_rc_channels.md R210) and the commands of the CRC unit (40_crc.md R122, R123).
-/

namespace Sys2Proof.Machine

/-- NOP: no state changes (R210). -/
def execNop (s : State) : Host.Outcome State Fault Refusal := .next s

/-- CRC_CLR (R122). -/
def execCrcClr (s : State) : Host.Outcome State Fault Refusal := .next { s with crcAcc := 0x00#8 }

/-- CRC_BYTE b (R123). -/
def execCrcByte (b : Byte) (s : State) : Host.Outcome State Fault Refusal :=
  .next { s with crcAcc := crc8Update s.crcAcc b }

end Sys2Proof.Machine
end

