-- ==== Sys2Proof/Machine/Dec.lean ====
section
/-!
DEFINITION. The frame decoder DEC (42_decoder.md): the command DEC_START (R164), the byte event Rx (R165 to R169) and
the timeout event (R176).
-/

namespace Sys2Proof.Machine

/-- DEC_START fid: start one decode; it flushes nothing (R164). -/
def execDecStart (fid : Half) (s : State) : Host.Outcome State Fault Refusal :=
  if s.decState.active then .next (s.raiseIllegal .decoderBusy Opcode.decStart)
  else
    .next (({ s with
      decExpect := fid
      decTail := []
      decHdr := Vector.replicate 8 0x00#8
      decHcnt := 0#4
      decFlags := 0x00#8
      decFid := 0#16
      decLen := 0#16
      decPcnt := 0#16
      decCrcCalc := 0x00#8
      decCrcRx := 0x00#8
      decCrcOk := false
      decFidMatch := false
      decStatusOk := false
      decFailPhase := .none } : State).enterPhase .scanning)

/-- The preamble is found: it becomes header bytes 0 to 2 and everything scanned is discarded (R166). -/
def State.preambleFound (s : State) : State :=
  ({ s with
      decHdr := ((s.decHdr.set 0 0x24#8).set 1 0x58#8).set 2 0x3E#8
      decHcnt := 3#4
      decTail := [] } : State).enterPhase .headerRead

/-- `Rx(b)` in Scanning (R166): the tail keeps the last 64 bytes, and its last three are compared after every byte. -/
def rxScan (b : Byte) (s : State) : State :=
  let tail := lastN (s.decTail ++ [b]) tailCap
  let scanned : State := { s with decTail := tail }
  if tail.length ≥ 3 ∧ lastN tail 3 = responsePreamble then scanned.preambleFound else scanned

/-- The header is complete: its fields are taken from header bytes 3 to 7 (R167). -/
def State.headerDone (s : State) : State :=
  ({ s with
      decFlags := s.decHdr[3]
      decFid := fromLe16 s.decHdr[4] s.decHdr[5]
      decLen := fromLe16 s.decHdr[6] s.decHdr[7]
      decPcnt := 0#16 } : State).enterPhase .headerComplete

/-- `Rx(b)` in HeaderRead (R167). A DEC_HCNT of 8 or more, which no run has here, names no header byte, and nothing is
stored (log 8). -/
def rxHeader (b : Byte) (s : State) : State :=
  let filled : State :=
    { s with decHdr := s.decHdr.setIfInBounds s.decHcnt.toNat b, decHcnt := s.decHcnt + 1#4 }
  if filled.decHcnt = 8#4 then filled.headerDone else filled

/-- `Rx(b)` in HeaderComplete while DEC_PCNT < DEC_LEN: one payload byte, taken as it is (R168). -/
def rxPayload (b : Byte) (s : State) : State :=
  { s with decPayload := Memory.write s.decPayload s.decPcnt.toNat b, decPcnt := s.decPcnt + 1#16 }

/-- `Rx(b)` in HeaderComplete when DEC_PCNT = DEC_LEN: the checksum byte completes the body (R169). -/
def rxChecksum (b : Byte) (s : State) : State :=
  ({ s with decCrcRx := b, decCrcCalc := crc8 s.checksumRegion } : State).setResultFlags.enterPhase .bodyComplete

/-- `Rx(b)` in HeaderComplete (R168, R169). Neither rule covers DEC_PCNT > DEC_LEN, which no run reaches: then nothing
but the byte's consumption happens (log 8). -/
def rxBody (b : Byte) (s : State) : State :=
  if s.decPcnt < s.decLen then rxPayload b s
  else if s.decPcnt = s.decLen then rxChecksum b s
  else s

/-- What an enabled `Rx(b)` does, by DEC_STATE (R165). -/
def rxByte (b : Byte) (s : State) : State :=
  match s.decState with
  | .scanning => rxScan b s
  | .headerRead => rxHeader b s
  | .headerComplete => rxBody b s
  | .idle => s
  | .bodyComplete => s
  | .failed => s

/-- The Rx event: enabled only in an active phase, it consumes the first pending byte; else the byte stays pending and
nothing happens (R165; log 5). -/
def rxEvent (s : State) : State :=
  if s.decState.active then
    match s.rx with
    | [] => s
    | b :: rest => rxByte b { s with rx := rest }
  else s

/-- Bytes arrive on RX in stream order, each followed by one Rx event if it is enabled (R100; log 4). -/
def rxBytes (bs : List Byte) (s : State) : State :=
  bs.foldl (fun t b => rxEvent (t.arrive b)) s

/-- The Timeout event: an active phase ends in NoResponse; else nothing happens (R176, R230; log 5, log 11). -/
def timeoutEvent (s : State) : State :=
  if s.decState.active then
    ({ s with
        decFailPhase := s.decState.failPhase
        decFlags := 0x00#8
        decFid := 0#16
        decLen := 0#16 } : State).enterPhase .failed
  else s

/-- Time passes: an armed timer advances, and when the phase's deadline is reached the Timeout event happens (R177,
R241; log 10). A disarmed timer does nothing. -/
def elapseEvent (d : Nat) (s : State) : State :=
  match s.timer, s.decState.deadline with
  | some t, some deadline =>
    if deadline ≤ t + d then timeoutEvent { s with timer := some (t + d) } else { s with timer := some (t + d) }
  | _, _ => s

end Sys2Proof.Machine
end

