-- ==== Sys2Proof/Machine/Enc.lean ====
section
/-!
DEFINITION. The frame encoder ENC (41_encoder.md R140 to R142).
-/

namespace Sys2Proof.Machine

/-- ENC_START fid, len: emit the header, and the checksum too when there is no payload (R140). -/
def execEncStart (fid len : Half) (s : State) : Host.Outcome State Fault Refusal :=
  if s.encBusy then .next (s.raiseIllegal .encoderBusy Opcode.encStart)
  else
    let hdr := headerRegion fid len
    let started : State :=
      { s.emit (requestPreamble ++ hdr) with
        encFid := fid, encLen := len, encRemain := len, encCrc := crc8 hdr }
    if len = 0#16 then .next { started.emit [started.encCrc] with encBusy := false }
    else .next { started with encBusy := true }

/-- ENC_DATA b: emit the next payload byte, and the checksum after the last one (R141). The count-down is the 16-bit
register's; it never wraps on a run (log 9). -/
def execEncData (b : Byte) (s : State) : Host.Outcome State Fault Refusal :=
  if s.encBusy then
    let folded : State :=
      { s.emit [b] with encCrc := crc8Update s.encCrc b, encRemain := s.encRemain - 1#16 }
    if folded.encRemain = 0#16 then .next { folded.emit [folded.encCrc] with encBusy := false }
    else .next folded
  else .next (s.raiseIllegal .encoderIdle Opcode.encData)

/-- ENC_RC: emit one whole SET_RAW_RC frame of the committed RC registers (R142). -/
def execEncRc (s : State) : Host.Outcome State Fault Refusal :=
  if s.encBusy then .next (s.raiseIllegal .encoderBusy Opcode.encRc)
  else
    let payload := s.rcSerialize
    let hdr := headerRegion fidSetRawRcId 32#16
    let c := crc8 (hdr ++ payload)
    .next { s.emit (requestPreamble ++ hdr ++ payload ++ [c]) with
      encFid := fidSetRawRcId, encLen := 32#16, encRemain := 0#16, encCrc := c }

end Sys2Proof.Machine
end

