-- ==== Sys2Proof/Machine/Rcf.lean ====
section
/-!
DEFINITION. The RC channel register file RCF (43_rc_channels.md R202 to R205).
-/

namespace Sys2Proof.Machine

/-- RC_SET index, value (R202). -/
def execRcSet (index : BitVec 4) (value : Half) (s : State) : Host.Outcome State Fault Refusal :=
  .next (s.rcWrite index value)

/-- RC_LOAD_BEGIN (R203). -/
def execRcLoadBegin (s : State) : Host.Outcome State Fault Refusal :=
  if s.rcLoading then .next (s.raiseIllegal .loadState Opcode.rcLoadBegin)
  else .next { s with rcLoading := true, rcLcnt := 0#5 }

/-- RC_LOAD_VAL value: stage it, or drop it when 16 are staged (R204). -/
def execRcLoadVal (value : Half) (s : State) : Host.Outcome State Fault Refusal :=
  if s.rcLoading then
    if s.rcLcnt < 16#5 then
      .next { s with rcStage := s.rcStage.setIfInBounds s.rcLcnt.toNat value, rcLcnt := s.rcLcnt + 1#5 }
    else .next s
  else .next (s.raiseIllegal .loadState Opcode.rcLoadVal)

/-- The vector RC_LOAD_END commits: the staged values, then the centre value (R205). -/
def State.committedRc (s : State) : Vector Half 16 :=
  Vector.ofFn fun i => if i.val < s.rcLcnt.toNat then s.rcStage[i] else rcCentre

/-- RC_LOAD_END: all 16 registers are replaced in one event (R205, R68). -/
def execRcLoadEnd (s : State) : Host.Outcome State Fault Refusal :=
  if s.rcLoading then .next { s with rc := s.committedRc, rcLoading := false, rcLcnt := 0#5 }
  else .next (s.raiseIllegal .loadState Opcode.rcLoadEnd)

end Sys2Proof.Machine
end

