-- ==== Sys2Proof/Machine/Wire.lean ====
section
/-!
DEFINITION. The frame rows of the opcode table (30_encoding.md R81, R87): a function id or a preamble on the wire. The
table marks them "not a command"; as input the block meets them only as bytes of the RX stream, in stream order, so
that is their meaning: they arrive and take their Rx events (R63, R165 to R169; DESIGN CHOICE, log 3).
-/

namespace Sys2Proof.Machine

/-- FID_STATUS: bytes 65 00 on RX (R87). -/
def execFidStatus (s : State) : Host.Outcome State Fault Refusal := .next (rxBytes (le16 fidStatusId) s)

/-- FID_RAW_IMU: bytes 66 00 on RX (R87). -/
def execFidRawImu (s : State) : Host.Outcome State Fault Refusal := .next (rxBytes (le16 fidRawImuId) s)

/-- FID_RC: bytes 69 00 on RX (R87). -/
def execFidRc (s : State) : Host.Outcome State Fault Refusal := .next (rxBytes (le16 fidRcId) s)

/-- FID_GPS: bytes 6B 00 on RX (R87). -/
def execFidGps (s : State) : Host.Outcome State Fault Refusal := .next (rxBytes (le16 fidGpsId) s)

/-- FID_ALTITUDE: bytes 6D 00 on RX (R87). -/
def execFidAltitude (s : State) : Host.Outcome State Fault Refusal := .next (rxBytes (le16 fidAltitudeId) s)

/-- FID_SET_RAW_RC: bytes C8 00 on RX (R87). -/
def execFidSetRawRc (s : State) : Host.Outcome State Fault Refusal := .next (rxBytes (le16 fidSetRawRcId) s)

/-- PREAMBLE_REQUEST: bytes 24 58 3C on RX, ordinary noise to the scan (R81, R91). -/
def execPreambleRequest (s : State) : Host.Outcome State Fault Refusal := .next (rxBytes requestPreamble s)

/-- PREAMBLE_RESPONSE: bytes 24 58 3E on RX, what the scan looks for (R81, R166). -/
def execPreambleResponse (s : State) : Host.Outcome State Fault Refusal := .next (rxBytes responsePreamble s)

end Sys2Proof.Machine
end

