-- ==== Sys2Proof/Machine/Dispatch.lean ====
section
/-!
DEFINITION. One arm per constructor of Instr: the meaning of each row of the opcode table.
-/

namespace Sys2Proof.Machine

/-- The meaning of an instruction. -/
def exec (i : Instr) (s : State) : Host.Outcome State Fault Refusal :=
  match i with
  | .nop => Sys2Proof.Machine.execNop s
  | .crcClr => Sys2Proof.Machine.execCrcClr s
  | .crcByte b => Sys2Proof.Machine.execCrcByte b s
  | .encStart fid len => Sys2Proof.Machine.execEncStart fid len s
  | .encData b => Sys2Proof.Machine.execEncData b s
  | .encRc => Sys2Proof.Machine.execEncRc s
  | .decStart fid => Sys2Proof.Machine.execDecStart fid s
  | .rcSet index value => Sys2Proof.Machine.execRcSet index value s
  | .rcLoadBegin => Sys2Proof.Machine.execRcLoadBegin s
  | .rcLoadVal value => Sys2Proof.Machine.execRcLoadVal value s
  | .rcLoadEnd => Sys2Proof.Machine.execRcLoadEnd s
  | .fidStatus => Sys2Proof.Machine.execFidStatus s
  | .fidRawImu => Sys2Proof.Machine.execFidRawImu s
  | .fidRc => Sys2Proof.Machine.execFidRc s
  | .fidGps => Sys2Proof.Machine.execFidGps s
  | .fidAltitude => Sys2Proof.Machine.execFidAltitude s
  | .fidSetRawRc => Sys2Proof.Machine.execFidSetRawRc s
  | .preambleRequest => Sys2Proof.Machine.execPreambleRequest s
  | .preambleResponse => Sys2Proof.Machine.execPreambleResponse s

end Sys2Proof.Machine
end

