-- ==== Sys2Proof/Machine/Events.lean ====
section
/-!
DEFINITION. The events of the block (00_scope.md R12): a command word (R95, R98), bytes on RX (R165), Timeout (R176),
passing time (R241) and Reset (R260, R262). Each is atomic (R68).
-/

namespace Sys2Proof.Machine

/-- `Cmd(w)`: the decoded command runs; a word with none is rejected with its cause (R98, R234; log 6). -/
def runCommand (w : CmdWord) (s : State) : Host.Outcome State Fault Refusal :=
  match decodeCommand w with
  | .ok i => exec i s
  | .error r => .next (s.raiseIllegal (rejectCause r) (opField w))

/-- Bytes on the wire: a frame row of the table runs as that row; any other bytes arrive and take their Rx events in
the same way (R84, R91, R165; log 3). -/
def runWire (bs : List Byte) (s : State) : Host.Outcome State Fault Refusal :=
  match decodeWire bs with
  | some i => exec i s
  | none => .next (rxBytes bs s)

/-- `Reset`: every register at its reset value in one event (R260); TX and the pending RX bytes stay (R262), and so do
the events still to come. -/
def resetEvent (s : State) : State :=
  { State.reset with tx := s.tx, rx := s.rx, events := s.events }

/-- One event (R12). -/
def handle (e : Event) (s : State) : Host.Outcome State Fault Refusal :=
  match e with
  | .cmd w => runCommand w s
  | .wire bs => runWire bs s
  | .arrive b => .next (s.arrive b)
  | .rx => .next (rxEvent s)
  | .timeout => .next (timeoutEvent s)
  | .elapse d => .next (elapseEvent d s)
  | .reset => .next (resetEvent s)

/-- Events one after another, in their one total order (R71). -/
def handleAll (es : List Event) (s : State) : Host.Outcome State Fault Refusal :=
  match es with
  | [] => .next s
  | e :: rest =>
    match handle e s with
    | .next t => handleAll rest t
    | .fault r => .fault r
    | .refused r => .refused r

/-- An encoding as the event that delivers it: a command word on the command port, bytes on RX. -/
def encodingEvent (e : Encoding) : Event :=
  match e with
  | .command w => .cmd w
  | .wire bs => .wire bs

end Sys2Proof.Machine
end

