-- ==== Sys2Proof/Machine/Step.lean ====
section
/-!
DEFINITION. One step of the machine: the next scheduled event happens (R12, R71). With no event scheduled the block
holds its state (R247, R261).
-/

namespace Sys2Proof.Machine

/-- Take the next event off the schedule and let it happen (log 1). -/
def step (s : State) : Host.Outcome State Fault Refusal :=
  match s.events with
  | [] => .next s
  | e :: rest => handle e { s with events := rest }

/-- The state with a word of the opcode table delivered as the very next event (log 2, log 12). -/
def State.withFetchWord (s : State) (nbits w : Nat) : State :=
  { s with events := encodingEvent (tableWord nbits w) :: s.events }

end Sys2Proof.Machine
end

