-- ==== Sys2Proof/WellFormed.lean ====
section
/-!
DEFINITION. Well-formedness of what the host writes: the source lines of R100 and R101, with their operands as plain
numbers, and the check that refuses an operand outside its field. An `Instr` needs no check of its own: its operands
have the widths of R96, so every term of `Instr` has an encoding (Obligations.DecodeEncodeRoundTrip has no premise).
-/

namespace Sys2Proof

/-- A line of source (R100, R101): a command, a pseudo-instruction, or an environment line. Operands are the numbers
written, not yet checked. -/
inductive SourceLine where
  | nop
  | crcClr
  | crcByte (b : Nat)
  | encStart (fid len : Nat)
  | encData (b : Nat)
  | encRc
  | decStart (fid : Nat)
  | rcSet (index value : Nat)
  | rcLoadBegin
  | rcLoadVal (value : Nat)
  | rcLoadEnd
  /-- `ENC0 fid` (R101). -/
  | enc0 (fid : Nat)
  /-- `ENC fid, [b0, ...]` (R101). -/
  | enc (fid : Nat) (payload : List Nat)
  /-- `CRC [b0, ...]` (R101). -/
  | crc (bs : List Nat)
  /-- `RC_LOAD [v0, ...]` (R101). -/
  | rcLoad (vs : List Nat)
  /-- `STATUS_QUERY` (R101). -/
  | statusQuery
  /-- `RX b0, b1, ...` (R100). -/
  | rx (bs : List Nat)
  /-- `TIMEOUT` (R100). -/
  | timeout
  /-- `RESET` (R100). -/
  | reset
  deriving DecidableEq, Repr

/-- A number fits a byte field: `b > 0xFF` is refused (R100). -/
def fitsByte (n : Nat) : Bool := decide (n ≤ 0xFF)

/-- A number fits a 16-bit field: `fid, len or value > 0xFFFF` is refused (R100). -/
def fitsHalf (n : Nat) : Bool := decide (n ≤ 0xFFFF)

/-- A number fits the 4-bit index field: `index > 15` is refused (R100). -/
def fitsIndex (n : Nat) : Bool := decide (n ≤ 15)

/-- The assembler's check of a line (R100; R101: `ENC` refuses n > 65535). -/
def SourceLine.wellFormed (l : SourceLine) : Bool :=
  match l with
  | .nop => true
  | .crcClr => true
  | .crcByte b => fitsByte b
  | .encStart fid len => fitsHalf fid && fitsHalf len
  | .encData b => fitsByte b
  | .encRc => true
  | .decStart fid => fitsHalf fid
  | .rcSet index value => fitsIndex index && fitsHalf value
  | .rcLoadBegin => true
  | .rcLoadVal value => fitsHalf value
  | .rcLoadEnd => true
  | .enc0 fid => fitsHalf fid
  | .enc fid payload => fitsHalf fid && fitsHalf payload.length && payload.all fitsByte
  | .crc bs => bs.all fitsByte
  | .rcLoad vs => vs.all fitsHalf
  | .statusQuery => true
  | .rx bs => bs.all fitsByte
  | .timeout => true
  | .reset => true

end Sys2Proof
end

