-- ==== Sys2Proof/Machine/Assembler.lean ====
section
/-!
DEFINITION. The assembler of 30_encoding.md R100 and R101: a source line becomes the events it stands for, or is
refused; and the reading of a line's characters (log 16).
-/

namespace Sys2Proof.Machine

/-- An instruction as the event that delivers it. -/
def eventOf (i : Instr) : Event := encodingEvent (encode i)

/-- The events of a line whose operands fit (R100, R101). -/
def expandLine (l : SourceLine) : List Event :=
  match l with
  | .nop => [eventOf .nop]
  | .crcClr => [eventOf .crcClr]
  | .crcByte b => [eventOf (.crcByte (BitVec.ofNat 8 b))]
  | .encStart fid len => [eventOf (.encStart (BitVec.ofNat 16 fid) (BitVec.ofNat 16 len))]
  | .encData b => [eventOf (.encData (BitVec.ofNat 8 b))]
  | .encRc => [eventOf .encRc]
  | .decStart fid => [eventOf (.decStart (BitVec.ofNat 16 fid))]
  | .rcSet index value => [eventOf (.rcSet (BitVec.ofNat 4 index) (BitVec.ofNat 16 value))]
  | .rcLoadBegin => [eventOf .rcLoadBegin]
  | .rcLoadVal value => [eventOf (.rcLoadVal (BitVec.ofNat 16 value))]
  | .rcLoadEnd => [eventOf .rcLoadEnd]
  | .enc0 fid => [eventOf (.encStart (BitVec.ofNat 16 fid) 0#16)]
  | .enc fid payload =>
    eventOf (.encStart (BitVec.ofNat 16 fid) (BitVec.ofNat 16 payload.length)) ::
      payload.map fun b => eventOf (.encData (BitVec.ofNat 8 b))
  | .crc bs => eventOf .crcClr :: bs.map fun b => eventOf (.crcByte (BitVec.ofNat 8 b))
  | .rcLoad vs =>
    eventOf .rcLoadBegin :: (vs.map fun v => eventOf (.rcLoadVal (BitVec.ofNat 16 v))) ++ [eventOf .rcLoadEnd]
  | .statusQuery => [eventOf (.encStart fidStatusId 0#16), eventOf (.decStart fidStatusId)]
  | .rx bs => bs.map fun b => .wire [BitVec.ofNat 8 b]
  | .timeout => [.timeout]
  | .reset => [.reset]

/-- Assemble a line: a line with an operand outside its field has no encoding (R100). -/
def assemble (l : SourceLine) : Option (List Event) :=
  if l.wellFormed then some (expandLine l) else none

/-! ### Reading a line of characters (R100; log 16) -/

/-- A line without its comment: `;` starts one (R100). -/
def stripComment (cs : List Char) : List Char := cs.takeWhile (· ≠ ';')

/-- A space between tokens. -/
def isBlank (c : Char) : Bool := c == ' ' || c == '\t'

/-- Cut a line into words: blanks separate, and `,`, `[` and `]` are words of their own. `acc` holds the word being
read, last character first. -/
def splitWords (acc : List Char) (cs : List Char) : List (List Char) :=
  let flush := if acc = [] then [] else [acc.reverse]
  match cs with
  | [] => flush
  | c :: rest =>
    if isBlank c then flush ++ splitWords [] rest
    else if c == ',' || c == '[' || c == ']' then flush ++ [[c]] ++ splitWords [] rest
    else splitWords (c :: acc) rest

/-- The value of a digit in a base of at most 16. -/
def digitValue (c : Char) : Option Nat :=
  let n := c.toNat
  if 48 ≤ n ∧ n ≤ 57 then some (n - 48)
  else if 65 ≤ n ∧ n ≤ 70 then some (n - 55)
  else if 97 ≤ n ∧ n ≤ 102 then some (n - 87)
  else none

/-- Digits of a base, most significant first, after the value read so far. -/
def readDigits (base acc : Nat) (cs : List Char) : Option Nat :=
  match cs with
  | [] => some acc
  | c :: rest =>
    match digitValue c with
    | some d => if d < base then readDigits base (acc * base + d) rest else none
    | none => none

/-- A number: decimal, or hex after `0x` (R100). -/
def readNumber (cs : List Char) : Option Nat :=
  match cs with
  | [] => none
  | ['0', 'x'] => none
  | '0' :: 'x' :: ds => readDigits 16 0 ds
  | ds => readDigits 10 0 ds

/-- Numbers separated by commas, at least one. -/
def readNumbers (ws : List (List Char)) : Option (List Nat) :=
  match ws with
  | [] => none
  | [w] => (readNumber w).map ([·])
  | w :: sep :: rest =>
    if sep = [','] then
      match readNumber w, readNumbers rest with
      | some n, some ns => some (n :: ns)
      | _, _ => none
    else none

/-- A bracketed list of numbers, perhaps empty (R101). -/
def readList (ws : List (List Char)) : Option (List Nat) :=
  match ws with
  | [['['], [']']] => some []
  | ['['] :: rest => if rest.getLast? = some [']'] then readNumbers rest.dropLast else none
  | _ => none

/-- One line of source: the mnemonic, then its operands in the order of the format's fields (R100, R101). A line of
blanks and comment only, and a line that fits no form, answers none. -/
def readLine (cs : List Char) : Option SourceLine :=
  match splitWords [] (stripComment cs) with
  | [] => none
  | m :: ws =>
    if m = "NOP".toList ∧ ws = [] then some .nop
    else if m = "CRC_CLR".toList ∧ ws = [] then some .crcClr
    else if m = "ENC_RC".toList ∧ ws = [] then some .encRc
    else if m = "RC_LOAD_BEGIN".toList ∧ ws = [] then some .rcLoadBegin
    else if m = "RC_LOAD_END".toList ∧ ws = [] then some .rcLoadEnd
    else if m = "STATUS_QUERY".toList ∧ ws = [] then some .statusQuery
    else if m = "TIMEOUT".toList ∧ ws = [] then some .timeout
    else if m = "RESET".toList ∧ ws = [] then some .reset
    else if m = "RX".toList then (readNumbers ws).map .rx
    else if m = "CRC".toList then (readList ws).map .crc
    else if m = "RC_LOAD".toList then (readList ws).map .rcLoad
    else if m = "ENC".toList then
      match ws with
      | fid :: sep :: rest =>
        if sep = [','] then
          match readNumber fid, readList rest with
          | some f, some bs => some (.enc f bs)
          | _, _ => none
        else none
      | _ => none
    else
      match readNumbers ws with
      | some [a] =>
        if m = "CRC_BYTE".toList then some (.crcByte a)
        else if m = "ENC_DATA".toList then some (.encData a)
        else if m = "DEC_START".toList then some (.decStart a)
        else if m = "RC_LOAD_VAL".toList then some (.rcLoadVal a)
        else if m = "ENC0".toList then some (.enc0 a)
        else none
      | some [a, b] =>
        if m = "ENC_START".toList then some (.encStart a b)
        else if m = "RC_SET".toList then some (.rcSet a b)
        else none
      | _ => none

/-- A line of characters to its events (R100, R101). -/
def assembleText (cs : List Char) : Option (List Event) := (readLine cs).bind assemble

end Sys2Proof.Machine
end

