-- ==== Sys2Proof/Machine/Frame.lean ====
section
/-!
DEFINITION. Frames (30_encoding.md R80 to R90): the layout, and when a byte sequence is a well-formed request or
response frame.
-/

namespace Sys2Proof.Machine

/-- The checksum region of a frame: flags, function id, length, payload (R80, R85). -/
def frameRegion (flags : Byte) (fid : Half) (payload : List Byte) : List Byte :=
  [flags] ++ le16 fid ++ le16 (BitVec.ofNat 16 payload.length) ++ payload

/-- The request frame of a function id and payload (R80, R82). -/
def requestFrame (fid : Half) (payload : List Byte) : List Byte :=
  requestPreamble ++ frameRegion 0x00#8 fid payload ++ [crc8 (frameRegion 0x00#8 fid payload)]

/-- The response frame of a flags byte, function id and payload, with a given trailing checksum byte (R80, R82). -/
def responseFrame (flags : Byte) (fid : Half) (payload : List Byte) (chk : Byte) : List Byte :=
  responsePreamble ++ frameRegion flags fid payload ++ [chk]

/-- R90's conditions that request and response frames share, for a given preamble. -/
def wellFormedFrame (pre f : List Byte) : Bool :=
  decide (9 ≤ f.length) && (f.take 3 == pre) &&
    decide ((fromLe16 (f.getD 6 0) (f.getD 7 0)).toNat = f.length - 9) &&
    (f.getD (f.length - 1) 0 == crc8 ((f.take (f.length - 1)).drop 3))

/-- A well-formed request frame (R90). -/
def wellFormedRequest (f : List Byte) : Bool := wellFormedFrame requestPreamble f && (f.getD 3 0 == 0x00#8)

/-- A well-formed response frame: any flags byte (R90, R82). -/
def wellFormedResponse (f : List Byte) : Bool := wellFormedFrame responsePreamble f

end Sys2Proof.Machine
end

