-- ==== Sys2Proof/Machine/Ports.lean ====
section
/-!
DEFINITION. The read-only outputs: STATUS (10_state.md R45), the output ports (R46) and the Response (42_decoder.md
R162). They are functions of the state, so reading one changes nothing (R46, R69).
-/

namespace Sys2Proof.Machine

/-- STATUS, most significant field first (R45). -/
def State.status (s : State) : BitVec 32 :=
  0#16 ++ s.illCause.code ++ BitVec.ofBool s.ill ++ BitVec.ofBool s.rcLoading ++ s.decCause ++ s.decFailPhase.code ++
    BitVec.ofBool s.decStatusOk ++ BitVec.ofBool s.decFidMatch ++ BitVec.ofBool s.decCrcOk ++ s.decState.code ++
    BitVec.ofBool s.encBusy

/-- Port `status` (R46). -/
def State.portStatus (s : State) : BitVec 32 := s.status
/-- Port `crc_out` (R46). -/
def State.portCrcOut (s : State) : Byte := s.crcAcc
/-- Port `enc_fid` (R46). -/
def State.portEncFid (s : State) : Half := s.encFid
/-- Port `enc_len` (R46). -/
def State.portEncLen (s : State) : Half := s.encLen
/-- Port `enc_remain` (R46). -/
def State.portEncRemain (s : State) : Half := s.encRemain
/-- Port `enc_crc` (R46). -/
def State.portEncCrc (s : State) : Byte := s.encCrc
/-- Port `dec_expect` (R46). -/
def State.portDecExpect (s : State) : Half := s.decExpect
/-- Port `dec_fid` (R46). -/
def State.portDecFid (s : State) : Half := s.decFid
/-- Port `dec_len` (R46). -/
def State.portDecLen (s : State) : Half := s.decLen
/-- Port `dec_flags` (R46). -/
def State.portDecFlags (s : State) : Byte := s.decFlags
/-- Port `dec_crc_calc` (R46). -/
def State.portDecCrcCalc (s : State) : Byte := s.decCrcCalc
/-- Port `dec_crc_rx` (R46). -/
def State.portDecCrcRx (s : State) : Byte := s.decCrcRx
/-- Port `dec_payload(i)`: the byte only in BodyComplete and below DEC_LEN, else 0x00 (R46). -/
def State.portDecPayload (s : State) (i : Nat) : Byte :=
  if s.decState = .bodyComplete ∧ i < s.decLen.toNat then Memory.read s.decPayload i else 0x00#8
/-- Port `rc(i)` (R46). -/
def State.portRc (s : State) (i : BitVec 4) : Half := s.rcRead i
/-- Port `ill_op` (R46). -/
def State.portIllOp (s : State) : Byte := s.illOp

/-- A Response: function id and payload, with the flags byte, the two checksums and the result flags (R162). -/
structure Response where
  fid : Half
  payload : List Byte
  flags : Byte
  crcCalc : Byte
  crcRx : Byte
  crcOk : Bool
  fidMatch : Bool
  statusOk : Bool
  deriving DecidableEq, Repr

/-- The Response, present exactly in BodyComplete, also after a checksum mismatch (R162, R172). -/
def State.response (s : State) : Option Response :=
  if s.decState = .bodyComplete then
    some
      { fid := s.decFid
        payload := (List.range s.decLen.toNat).map s.portDecPayload
        flags := s.decFlags
        crcCalc := s.decCrcCalc
        crcRx := s.decCrcRx
        crcOk := s.decCrcOk
        fidMatch := s.decFidMatch
        statusOk := s.decStatusOk }
  else none

/-- R240: how the host sees that an operation has finished. -/
def State.encDone (s : State) : Bool := !s.encBusy
def State.decDone (s : State) : Bool := s.decState == .bodyComplete || s.decState == .failed
def State.rcLoadDone (s : State) : Bool := !s.rcLoading

end Sys2Proof.Machine
end

