-- ==== Sys2Proof/Safety.lean ====
section
/-!
DEFINITION. What a good state and a safe run are, in the terms the claims use: the invariants of the registers (from the
"derived" sentences of 10_state.md and 42_decoder.md), the encoder's invariant over TX (41_encoder.md R143), and a run
in which no command was rejected (60_exceptions.md R234).
-/

namespace Sys2Proof.Machine

/-- ENC: ENC_REMAIN is 0 exactly when ENC is not busy, and never above ENC_LEN (R24, R27, R141). -/
abbrev EncRegistersOk (s : State) : Prop :=
  (s.encBusy = true ↔ s.encRemain ≠ 0#16) ∧ s.encRemain.toNat ≤ s.encLen.toNat

/-- DEC, the scan and the header (R31, R32, R127): the tail holds at most 64 bytes; in HeaderRead 3 to 7 header bytes
are held, the preamble first; from header completion on all 8 are, and they decode to DEC_FLAGS, DEC_FID and DEC_LEN
(R33). -/
abbrev DecHeaderOk (s : State) : Prop :=
  s.decTail.length ≤ tailCap ∧
  (s.decState = .headerRead → 3 ≤ s.decHcnt.toNat ∧ s.decHcnt.toNat ≤ 7 ∧ s.decHdr.toList.take 3 = responsePreamble) ∧
  (s.decState = .headerComplete ∨ s.decState = .bodyComplete →
    s.decHcnt = 8#4 ∧ s.decHdr.toList.take 3 = responsePreamble ∧ s.decFlags = s.decHdr[3] ∧
      s.decFid = fromLe16 s.decHdr[4] s.decHdr[5] ∧ s.decLen = fromLe16 s.decHdr[6] s.decHdr[7])

/-- DEC, the header fields outside a held header: DEC_FLAGS, DEC_FID and DEC_LEN are 0 (R33, R163). -/
abbrev DecFieldsOk (s : State) : Prop :=
  s.decState ≠ .headerComplete → s.decState ≠ .bodyComplete →
    s.decFlags = 0x00#8 ∧ s.decFid = 0#16 ∧ s.decLen = 0#16

/-- DEC, the body (R34, R127): DEC_PCNT never passes DEC_LEN while the body is read, equals it once the body is
complete, and is 0 before the header is; the payload buffer keeps its canonical form. -/
abbrev DecBodyOk (s : State) : Prop :=
  (s.decState = .headerComplete → s.decPcnt.toNat ≤ s.decLen.toNat) ∧
  (s.decState = .bodyComplete → s.decPcnt = s.decLen) ∧
  (s.decState = .idle ∨ s.decState = .scanning ∨ s.decState = .headerRead → s.decPcnt = 0#16) ∧
  Memory.wf s.decPayload

/-- DEC, the results (R35, R36, R169): in BodyComplete the computed checksum is that of the held region and each flag
is its test; in every other state all five are 0. -/
abbrev DecResultOk (s : State) : Prop :=
  (s.decState = .bodyComplete →
    s.decCrcCalc = crc8 s.checksumRegion ∧ s.decCrcOk = (s.decCrcCalc == s.decCrcRx) ∧
      s.decFidMatch = (s.decFid == s.decExpect) ∧ s.decStatusOk = (s.decCrcOk && s.decFidMatch)) ∧
  (s.decState ≠ .bodyComplete →
    s.decCrcCalc = 0x00#8 ∧ s.decCrcRx = 0x00#8 ∧ s.decCrcOk = false ∧ s.decFidMatch = false ∧ s.decStatusOk = false)

/-- DEC, the failure record and the deadline timer: a failure phase is recorded exactly in Failed (R37), and the timer
is armed exactly in an active phase (R241; log 10). -/
abbrev DecPhaseOk (s : State) : Prop :=
  (s.decState = .failed ↔ s.decFailPhase ≠ .none) ∧ s.timer.isSome = s.decState.active

/-- RCF: RC_LCNT counts to at most 16, and is 0 outside a load (R40, R204, R205). -/
abbrev RcfOk (s : State) : Prop :=
  s.rcLcnt.toNat ≤ 16 ∧ (s.rcLoading = false → s.rcLcnt = 0#5)

/-- The command-error record: a cause is recorded exactly when ILL is set, and ILL_OP is 0 before that (R42, R233). -/
abbrev IllOk (s : State) : Prop :=
  (s.ill = true ↔ s.illCause ≠ .none) ∧ (s.ill = false → s.illOp = 0x00#8)

/-- The invariant of the registers: what every run from reset keeps. -/
structure Inv (s : State) : Prop where
  enc : EncRegistersOk s
  header : DecHeaderOk s
  fields : DecFieldsOk s
  body : DecBodyOk s
  result : DecResultOk s
  phase : DecPhaseOk s
  rcf : RcfOk s
  ill : IllOk s

/-- The encoder's invariant over TX (R143): while a frame waits for payload, TX ends with that frame's bytes so far,
ENC_REMAIN bytes are still due, and ENC_CRC is the CRC of the region emitted. -/
def EncStreamOk (s : State) : Prop :=
  s.encBusy = true →
    ∃ before payload : List Byte,
      s.tx = before ++ requestPreamble ++ headerRegion s.encFid s.encLen ++ payload ∧
      payload.length + s.encRemain.toNat = s.encLen.toNat ∧ s.encRemain ≠ 0#16 ∧
      s.encCrc = crc8 (headerRegion s.encFid s.encLen ++ payload)

/-- No command has been rejected since reset: the premise R234 recommends for claims about command sequences. -/
def State.clean (s : State) : Prop := s.ill = false

/-- A state some schedule of events leads to from reset (R263). -/
def Reachable (s : State) : Prop := ∃ es : List Event, handleAll es State.reset = .next s

end Sys2Proof.Machine
end

