-- ==== Sys2Proof/Certificates/Slice0/Obligations.lean ====
section
/-!
DEFINITION. The statements about the model, from the numbered rules of spec/. `Spec` holds what they are stated with,
written from the rules and not from the meanings. Each docstring names its rule; a statement that rests on a choice of
the model says so and names the log entry.
-/

namespace Sys2Proof.Spec

open Sys2Proof.Machine

/-- The command word `OO_AAAAAAAA` (R95). -/
def word (op : Byte) (arg : BitVec 32) : CmdWord := op ++ arg

/-- The opcodes R98 lists as reserved. -/
def ReservedOpcode (op : Byte) : Prop :=
  (0x03 ≤ op.toNat ∧ op.toNat ≤ 0x0F) ∨ (0x13 ≤ op.toNat ∧ op.toNat ≤ 0x1F) ∨
    (0x21 ≤ op.toNat ∧ op.toNat ≤ 0x2F) ∨ (0x34 ≤ op.toNat ∧ op.toNat ≤ 0xFF)

/-- The reserved ARG bits of a command, by the format R97 gives its OP and the bits R96 gives the format. -/
def reservedMask (op : Byte) : BitVec 32 :=
  if op ∈ [0x00#8, 0x01#8, 0x12#8, 0x31#8, 0x33#8] then 0xFFFFFFFF#32
  else if op ∈ [0x02#8, 0x11#8] then 0xFFFFFF00#32
  else if op ∈ [0x20#8, 0x32#8] then 0xFFFF0000#32
  else if op = 0x30#8 then 0xFFF00000#32
  else 0#32

/-- `raise IllegalCommand(cause)` (R234). -/
def rejected (s : State) (cause : IllCause) (op : Byte) : State :=
  { s with ill := true, illCause := cause, illOp := op }

/-- The state condition R233's table gives a command, if it is violated. -/
def stateCondition (op : Byte) (s : State) : Option IllCause :=
  if (op = 0x10#8 ∨ op = 0x12#8) ∧ s.encBusy = true then some .encoderBusy
  else if op = 0x11#8 ∧ s.encBusy = false then some .encoderIdle
  else if op = 0x20#8 ∧ (s.decState = .scanning ∨ s.decState = .headerRead ∨ s.decState = .headerComplete) then
    some .decoderBusy
  else if op = 0x31#8 ∧ s.rcLoading = true then some .loadState
  else if (op = 0x32#8 ∨ op = 0x33#8) ∧ s.rcLoading = false then some .loadState
  else none

/-- Whether R96 gives the word a reserved bit that is 1. -/
def reservedBitSet (w : CmdWord) : Prop := w.extractLsb' 0 32 &&& reservedMask (w.extractLsb' 32 8) ≠ 0#32

/-- The commands of R140 and R141 that encode a payload (R101's ENC). -/
def encodeEvents (fid : Half) (payload : List Byte) : List Event :=
  .cmd (word 0x10#8 (BitVec.ofNat 16 payload.length ++ fid)) :: payload.map fun b => .cmd (word 0x11#8 (0#24 ++ b))

/-- The command of R164. -/
def decodeStart (fid : Half) : Event := .cmd (word 0x20#8 (0#16 ++ fid))

/-- The commands of R203 to R205 that load a list (R101's RC_LOAD). -/
def loadEvents (vs : List Half) : List Event :=
  .cmd (word 0x31#8 0#32) :: (vs.map fun v => Event.cmd (word 0x32#8 (0#16 ++ v))) ++ [.cmd (word 0x33#8 0#32)]

/-- DEC is inactive: Idle, BodyComplete or Failed (R160). -/
def DecInactive (s : State) : Prop := s.decState = .idle ∨ s.decState = .bodyComplete ∨ s.decState = .failed

/-- An outcome with a change made to its next state. -/
def mapNext (f : State → State) (o : Host.Outcome State Fault Refusal) : Host.Outcome State Fault Refusal :=
  match o with
  | .next t => .next (f t)
  | .fault r => .fault r
  | .refused r => .refused r

/-- The registers outside DEC: CRCU, ENC, RCF, the command-error record, TX and the schedule are as before. -/
def OutsideDecUnchanged (s t : State) : Prop :=
  t.crcAcc = s.crcAcc ∧ t.encBusy = s.encBusy ∧ t.encFid = s.encFid ∧ t.encLen = s.encLen ∧
    t.encRemain = s.encRemain ∧ t.encCrc = s.encCrc ∧ t.rc = s.rc ∧ t.rcLoading = s.rcLoading ∧
    t.rcLcnt = s.rcLcnt ∧ t.rcStage = s.rcStage ∧ t.ill = s.ill ∧ t.illCause = s.illCause ∧ t.illOp = s.illOp ∧
    t.tx = s.tx ∧ t.events = s.events

end Sys2Proof.Spec

open Sys2Proof Sys2Proof.Machine

/-! ### Encodings -/

/-- R95 to R97, R81, R87: no operand bit of an encoding is dropped; every instruction is read back from its encoding. That a frame row's
encoding is its bytes on the wire is the model's choice (log 3). -/
def Obligations.DecodeEncodeRoundTrip : Prop := ∀ i : Instr, decode (encode i) = some i

/-- R96 to R98: a word that decodes is the one encoding of its instruction, so no reserved bit is ignored.
That byte sequences on the wire are read as the frame rows is the model's choice (log 3). -/
def Obligations.EachEncodingHasOneMeaning : Prop := ∀ (e : Encoding) (i : Instr), decode e = some i → encode i = e

/-- R98: the three decoding steps in their order, over every 40-bit word and every state. -/
def Obligations.ReservedWordsRejectedInOrder : Prop :=
  ∀ (w : CmdWord) (s : State),
    (Spec.ReservedOpcode (w.extractLsb' 32 8) →
      handle (.cmd w) s = .next (Spec.rejected s .reservedOpcode (w.extractLsb' 32 8))) ∧
    (¬ Spec.ReservedOpcode (w.extractLsb' 32 8) → Spec.reservedBitSet w →
      handle (.cmd w) s = .next (Spec.rejected s .reservedBits (w.extractLsb' 32 8))) ∧
    (¬ Spec.ReservedOpcode (w.extractLsb' 32 8) → ¬ Spec.reservedBitSet w →
      ∃ i : Instr, encode i = .command w ∧ handle (.cmd w) s = exec i s)

/-- The words the rules write out decode to their instructions (R122, R123, R140, R164, R202, R87, R81). The 16-bit and
24-bit clauses hold by the model's choice (DESIGN CHOICE, log 12): a table word is read by its width, and a preamble's
bytes in stream order are its digits from left to right. -/
def Obligations.SpecWordsDecode : Prop :=
  decodeTableWord 40 0x0000000000 = some .nop ∧
  decodeTableWord 40 0x0200000031 = some (.crcByte 0x31#8) ∧
  decodeTableWord 40 0x1000010065 = some (.encStart 101#16 1#16) ∧
  decodeTableWord 40 0x2000000065 = some (.decStart 101#16) ∧
  decodeTableWord 40 0x30000204B0 = some (.rcSet 2#4 1200#16) ∧
  decodeTableWord 16 0x00C8 = some .fidSetRawRc ∧
  decodeTableWord 24 0x24583E = some .preambleResponse ∧
  decodeTableWord 40 0x3000100005 = none ∧
  decodeTableWord 40 0x0300000000 = none

/-! ### The step -/

/-- R12, R71, R98: a step takes the next event off the schedule and runs the decoded instruction on the rest; with no
event the block waits (log 1, log 3). -/
def Obligations.StepRunsDecodedInstruction : Prop :=
  (∀ (s : State) (w : CmdWord) (rest : List Event) (i : Instr),
    s.events = .cmd w :: rest → decode (.command w) = some i → step s = exec i { s with events := rest }) ∧
  (∀ (s : State) (bs : List Byte) (rest : List Event) (i : Instr),
    s.events = .wire bs :: rest → decode (.wire bs) = some i → step s = exec i { s with events := rest }) ∧
  (∀ (s : State) (e : Event) (rest : List Event),
    s.events = e :: rest → step s = handle e { s with events := rest }) ∧
  (∀ s : State, s.events = [] → step s = .next s)

/-- R71: running the schedule step by step is handling its events in order, whatever follows them (log 1). -/
def Obligations.ScheduleRunsInOrder : Prop :=
  ∀ (es rest : List Event) (s : State),
    s.events = es ++ rest → Host.Core.run Sys2Proof.core es.length s = handleAll es { s with events := rest }

/-! ### Rejected commands -/

/-- R233, R234, R235: for every word with a command, the state condition alone decides; a violated one changes only
ILL, ILL_CAUSE and ILL_OP, and a command that is not rejected leaves those three as they are. -/
def Obligations.RejectionChangesOnlyIllRegisters : Prop :=
  ∀ (w : CmdWord) (s : State), ¬ Spec.ReservedOpcode (w.extractLsb' 32 8) → ¬ Spec.reservedBitSet w →
    (∀ c, Spec.stateCondition (w.extractLsb' 32 8) s = some c →
      handle (.cmd w) s = .next (Spec.rejected s c (w.extractLsb' 32 8))) ∧
    (Spec.stateCondition (w.extractLsb' 32 8) s = none →
      ∃ t, handle (.cmd w) s = .next t ∧ t.ill = s.ill ∧ t.illCause = s.illCause ∧ t.illOp = s.illOp)

/-- R42, R239: once set, ILL stays set under every event but Reset. -/
def Obligations.IllStickyUntilReset : Prop :=
  ∀ (e : Event) (s t : State), e ≠ .reset → s.ill = true → handle e s = .next t → t.ill = true

/-! ### CRC -/

/-- R122, R123, R210: NOP, CRC_CLR and CRC_BYTE, as instructions and as command words, with their frame (every other
field is as before) and their only exception. -/
def Obligations.NopAndCrcCommands : Prop :=
  ∀ s : State,
    exec .nop s = .next s ∧
    exec .crcClr s = .next { s with crcAcc := 0x00#8 } ∧
    (∀ b : Byte, exec (.crcByte b) s = .next { s with crcAcc := crc8Update s.crcAcc b }) ∧
    handle (.cmd (Spec.word 0x00#8 0#32)) s = .next s ∧
    handle (.cmd (Spec.word 0x01#8 0#32)) s = .next { s with crcAcc := 0x00#8 } ∧
    (∀ b : Byte, handle (.cmd (Spec.word 0x02#8 (0#24 ++ b))) s = .next { s with crcAcc := crc8Update s.crcAcc b }) ∧
    (∀ arg : BitVec 32, arg ≠ 0#32 →
      handle (.cmd (Spec.word 0x00#8 arg)) s = .next (Spec.rejected s .reservedBits 0x00#8) ∧
      handle (.cmd (Spec.word 0x01#8 arg)) s = .next (Spec.rejected s .reservedBits 0x01#8)) ∧
    (∀ (hi : BitVec 24) (b : Byte), hi ≠ 0#24 →
      handle (.cmd (Spec.word 0x02#8 (hi ++ b))) s = .next (Spec.rejected s .reservedBits 0x02#8))

/-- R124 law 3: `crc8_update(0, v)` is the remainder of `v(x)·x^8` modulo `x^8 + x^7 + x^6 + x^4 + x^2 + 1` over GF(2). -/
def Obligations.CrcUpdateIsPolynomialRemainder : Prop :=
  ∀ v : Byte,
    (∑ i ∈ Finset.range 8, if v.getLsbD i then (Polynomial.X : Polynomial (ZMod 2)) ^ (i + 8) else 0) %ₘ
        (Polynomial.X ^ 8 + Polynomial.X ^ 7 + Polynomial.X ^ 6 + Polynomial.X ^ 4 + Polynomial.X ^ 2 + 1) =
      ∑ i ∈ Finset.range 8, if (crc8Update 0#8 v).getLsbD i then (Polynomial.X : Polynomial (ZMod 2)) ^ i else 0

/-- R124 laws 1, 2, 4, 5, 6 and 7: fold, linearity, bijection, zero test, residue, all-zero input. -/
def Obligations.CrcAlgebraicLaws : Prop :=
  (∀ s t : List Byte, crc8 (s ++ t) = t.foldl crc8Update (crc8 s)) ∧
  (∀ acc b : Byte, crc8Update acc b = crc8Update 0#8 (acc ^^^ b)) ∧
  (∀ b : Byte, Function.Bijective fun acc => crc8Update acc b) ∧
  (∀ acc : Byte, Function.Bijective (crc8Update acc)) ∧
  (∀ acc b : Byte, crc8Update acc b = 0x00#8 ↔ acc = b) ∧
  (∀ s : List Byte, crc8 (s ++ [crc8 s]) = 0x00#8) ∧
  (∀ n : Nat, crc8 (List.replicate n 0x00#8) = 0x00#8)

/-- R124 law 8: sequences that differ in exactly one byte have different checksums. -/
def Obligations.CrcDetectsSingleByteChange : Prop :=
  ∀ (u v : List Byte) (a b : Byte), a ≠ b → crc8 (u ++ a :: v) ≠ crc8 (u ++ b :: v)

/-- R123, R101: CRC_CLR and then one CRC_BYTE for each byte of a sequence leaves its crc8 in CRC_ACC, from any state,
and changes nothing else. -/
def Obligations.CrcSequenceComputesCrc8 : Prop :=
  ∀ (bs : List Byte) (s : State),
    handleAll (.cmd (Spec.word 0x01#8 0#32) :: bs.map fun b => Event.cmd (Spec.word 0x02#8 (0#24 ++ b))) s =
      .next { s with crcAcc := crc8 bs }

/-- R126, its first two sentences: CRCU is independent of ENC and DEC. The CRCU commands commute with any change of
ENC_CRC and DEC_CRC_CALC, and the ENC and DEC commands and DEC's events with any change of CRC_ACC. Nothing is said here
of ENC against DEC. That a CRCU command leaves a frame as it is (R126's last sentence) is NopAndCrcCommands. The wire
event (log 4) and passing time (log 10) are the model's. -/
def Obligations.CrcuIndependentOfEncAndDec : Prop :=
  (∀ (b : Byte) (s : State) (enc dec : Byte),
    exec .crcClr { s with encCrc := enc, decCrcCalc := dec } =
      Spec.mapNext (fun t => { t with encCrc := enc, decCrcCalc := dec }) (exec .crcClr s) ∧
    exec (.crcByte b) { s with encCrc := enc, decCrcCalc := dec } =
      Spec.mapNext (fun t => { t with encCrc := enc, decCrcCalc := dec }) (exec (.crcByte b) s)) ∧
  (∀ (s : State) (acc : Byte),
    (∀ i : Instr,
      (∃ fid len, i = .encStart fid len) ∨ (∃ b, i = .encData b) ∨ i = .encRc ∨ (∃ fid, i = .decStart fid) →
      exec i { s with crcAcc := acc } = Spec.mapNext (fun t => { t with crcAcc := acc }) (exec i s)) ∧
    (∀ e : Event, e = .rx ∨ e = .timeout ∨ (∃ bs, e = .wire bs) ∨ (∃ d, e = .elapse d) →
      handle e { s with crcAcc := acc } = Spec.mapNext (fun t => { t with crcAcc := acc }) (handle e s)))

/-! ### Encoder -/

/-- R140: ENC_START, with its frame and its rejection. -/
def Obligations.EncStartEmitsHeader : Prop :=
  ∀ (fid len : Half) (s : State),
    handle (.cmd (Spec.word 0x10#8 (len ++ fid))) s = exec (.encStart fid len) s ∧
    (s.encBusy = true → exec (.encStart fid len) s = .next (Spec.rejected s .encoderBusy 0x10#8)) ∧
    (s.encBusy = false → len = 0#16 →
      exec (.encStart fid len) s =
        .next { s with
          tx := s.tx ++ [0x24#8, 0x58#8, 0x3C#8, 0x00#8] ++ le16 fid ++ le16 len ++
            [crc8 ([0x00#8] ++ le16 fid ++ le16 len)]
          encFid := fid
          encLen := len
          encRemain := len
          encCrc := crc8 ([0x00#8] ++ le16 fid ++ le16 len)
          encBusy := false }) ∧
    (s.encBusy = false → len ≠ 0#16 →
      exec (.encStart fid len) s =
        .next { s with
          tx := s.tx ++ [0x24#8, 0x58#8, 0x3C#8, 0x00#8] ++ le16 fid ++ le16 len
          encFid := fid
          encLen := len
          encRemain := len
          encCrc := crc8 ([0x00#8] ++ le16 fid ++ le16 len)
          encBusy := true })

/-- R141: ENC_DATA before the last byte and on it, with its frame and its two rejections. -/
def Obligations.EncDataEmitsPayloadAndChecksum : Prop :=
  ∀ (b : Byte) (s : State),
    handle (.cmd (Spec.word 0x11#8 (0#24 ++ b))) s = exec (.encData b) s ∧
    (∀ hi : BitVec 24, hi ≠ 0#24 →
      handle (.cmd (Spec.word 0x11#8 (hi ++ b))) s = .next (Spec.rejected s .reservedBits 0x11#8)) ∧
    (s.encBusy = false → exec (.encData b) s = .next (Spec.rejected s .encoderIdle 0x11#8)) ∧
    (s.encBusy = true → s.encRemain = 1#16 →
      exec (.encData b) s =
        .next { s with
          tx := s.tx ++ [b, crc8Update s.encCrc b]
          encCrc := crc8Update s.encCrc b
          encRemain := 0#16
          encBusy := false }) ∧
    (s.encBusy = true → 1 < s.encRemain.toNat →
      exec (.encData b) s =
        .next { s with
          tx := s.tx ++ [b]
          encCrc := crc8Update s.encCrc b
          encRemain := BitVec.ofNat 16 (s.encRemain.toNat - 1) })

/-- R142, R88: ENC_RC emits one well-formed 41-byte SET_RAW_RC frame of the committed RC registers, channel i at
payload bytes 2i and 2i+1. -/
def Obligations.EncRcEmitsSetRawRcFrame : Prop :=
  ∀ s : State,
    handle (.cmd (Spec.word 0x12#8 0#32)) s = exec .encRc s ∧
    (∀ arg : BitVec 32, arg ≠ 0#32 →
      handle (.cmd (Spec.word 0x12#8 arg)) s = .next (Spec.rejected s .reservedBits 0x12#8)) ∧
    (s.encBusy = true → exec .encRc s = .next (Spec.rejected s .encoderBusy 0x12#8)) ∧
    (s.encBusy = false →
      ∃ (f : List Byte) (c : Byte),
        exec .encRc s =
          .next { s with
            tx := s.tx ++ f, encFid := 200#16, encLen := 32#16, encRemain := 0#16, encCrc := c } ∧
        f.length = 41 ∧ f.take 8 = [0x24#8, 0x58#8, 0x3C#8, 0x00#8, 0xC8#8, 0x00#8, 0x20#8, 0x00#8] ∧
        (∀ i : BitVec 4,
          f[8 + 2 * i.toNat]? = some ((s.rcRead i).extractLsb' 0 8) ∧
          f[8 + 2 * i.toNat + 1]? = some ((s.rcRead i).extractLsb' 8 8)) ∧
        f[40]? = some c ∧ c = crc8 ((f.take 40).drop 3) ∧ wellFormedRequest f = true)

/-- R142, corner case 3: ENC_RC is ENC_START 200, 32 followed by ENC_DATA of each byte of the serialized registers. -/
def Obligations.EncRcEqualsLongForm : Prop :=
  ∀ s : State, s.encBusy = false → handleAll (Spec.encodeEvents 200#16 s.rcSerialize) s = exec .encRc s

/-- R143, R90, R80: ENC_START and the payload's ENC_DATA commands append exactly one frame, with R80's layout, and it is
a well-formed request; nothing else changes. -/
def Obligations.EncodedFrameIsWellFormedRequest : Prop :=
  ∀ (fid : Half) (payload : List Byte) (s : State), s.encBusy = false → payload.length ≤ 65535 →
    ∃ f : List Byte,
      handleAll (Spec.encodeEvents fid payload) s =
        .next { s with
          tx := s.tx ++ f
          encFid := fid
          encLen := BitVec.ofNat 16 payload.length
          encRemain := 0#16
          encCrc := crc8 ((f.take (8 + payload.length)).drop 3)
          encBusy := false } ∧
      f = requestFrame fid payload ∧ f.length = 9 + payload.length ∧ wellFormedRequest f = true

/-- R143, R90, R141: from every state that meets the encoder's invariant over TX, the data byte that is the last one due
leaves a complete frame as TX's last bytes, and that frame is a well-formed request of the announced id and length. -/
def Obligations.LastDataByteCompletesFrame : Prop :=
  ∀ (b : Byte) (s : State), EncStreamOk s → s.encBusy = true → s.encRemain = 1#16 →
    ∃ (t : State) (before payload : List Byte),
      exec (.encData b) s = .next t ∧ t.encBusy = false ∧ payload.length = s.encLen.toNat ∧
        payload.getLast? = some b ∧ t.tx = before ++ requestFrame s.encFid payload ∧
        wellFormedRequest (requestFrame s.encFid payload) = true

/-- R143: the encoder's invariant over TX is kept by every step: while ENC is busy, TX ends with the frame's bytes so
far, and ENC_REMAIN and ENC_CRC agree with them. -/
def Obligations.StepKeepsEncoderStream : Prop :=
  ∀ s t : State, EncStreamOk s → step s = .next t → EncStreamOk t

/-- R43, R61, R143: TX only grows, and only an ENC command appends to it. -/
def Obligations.OnlyEncoderAppendsToTx : Prop :=
  ∀ (e : Event) (s t : State), handle e s = .next t →
    ∃ bs : List Byte, t.tx = s.tx ++ bs ∧
      (bs ≠ [] → ∃ w, e = .cmd w ∧ w.extractLsb' 32 8 ∈ [0x10#8, 0x11#8, 0x12#8])

/-- R271: an event that is no ENC command and no Reset does not disturb the frame in progress. -/
def Obligations.OtherEventsKeepFrameInProgress : Prop :=
  ∀ (e : Event) (s t : State), e ≠ .reset →
    (∀ w, e = .cmd w → w.extractLsb' 32 8 ∉ [0x10#8, 0x11#8, 0x12#8]) → handle e s = .next t →
    t.encBusy = s.encBusy ∧ t.encFid = s.encFid ∧ t.encLen = s.encLen ∧ t.encRemain = s.encRemain ∧
      t.encCrc = s.encCrc ∧ t.tx = s.tx

/-! ### Decoder -/

/-- R164: DEC_START, with its frame and its two rejections. The timer's re-arming is the model's (R241; log 10). -/
def Obligations.DecStartClearsAndScans : Prop :=
  ∀ (fid : Half) (s : State),
    handle (Spec.decodeStart fid) s = exec (.decStart fid) s ∧
    (∀ hi : BitVec 16, hi ≠ 0#16 →
      handle (.cmd (Spec.word 0x20#8 (hi ++ fid))) s = .next (Spec.rejected s .reservedBits 0x20#8)) ∧
    (¬ Spec.DecInactive s → exec (.decStart fid) s = .next (Spec.rejected s .decoderBusy 0x20#8)) ∧
    (Spec.DecInactive s →
      exec (.decStart fid) s =
        .next { s with
          decExpect := fid
          decTail := []
          decHdr := Vector.replicate 8 0x00#8
          decHcnt := 0#4
          decFlags := 0x00#8
          decFid := 0#16
          decLen := 0#16
          decPcnt := 0#16
          decCrcCalc := 0x00#8
          decCrcRx := 0x00#8
          decCrcOk := false
          decFidMatch := false
          decStatusOk := false
          decFailPhase := .none
          decState := .scanning
          timer := some 0 })

/-- R165: Rx is enabled only in an active phase, takes exactly the first pending byte, and raises nothing. -/
def Obligations.RxTakesOnePendingByteWhenActive : Prop :=
  ∀ s : State,
    (Spec.DecInactive s → handle .rx s = .next s) ∧
    (s.rx = [] → handle .rx s = .next s) ∧
    (∀ (b : Byte) (rest : List Byte), ¬ Spec.DecInactive s → s.rx = b :: rest →
      ∃ t, handle .rx s = .next t ∧ t.rx = rest ∧ Spec.OutsideDecUnchanged s t)

/-- R166: one byte in Scanning, with its frame. The timer's re-arming is the model's (R241; log 10). -/
def Obligations.RxScanTestsLastThreeBytes : Prop :=
  ∀ (s : State) (b : Byte) (rest : List Byte), s.decState = .scanning → s.rx = b :: rest →
    (∀ u : List Byte, lastN (s.decTail ++ [b]) 64 = u ++ [0x24#8, 0x58#8, 0x3E#8] →
      handle .rx s =
        .next { s with
          rx := rest
          decTail := []
          decHdr := #v[0x24#8, 0x58#8, 0x3E#8, s.decHdr[3], s.decHdr[4], s.decHdr[5], s.decHdr[6], s.decHdr[7]]
          decHcnt := 3#4
          decState := .headerRead
          timer := some 0 }) ∧
    ((¬ ∃ u : List Byte, lastN (s.decTail ++ [b]) 64 = u ++ [0x24#8, 0x58#8, 0x3E#8]) →
      handle .rx s = .next { s with rx := rest, decTail := lastN (s.decTail ++ [b]) 64 })

/-- R167: one byte in HeaderRead at header position n, with its frame; the eighth byte completes the header. The
timer's re-arming is the model's (R241; log 10). -/
def Obligations.RxHeaderCollectsFields : Prop :=
  ∀ (s : State) (b : Byte) (rest : List Byte) (n : Nat) (hn : n < 8), s.decState = .headerRead → s.rx = b :: rest →
    s.decHcnt = BitVec.ofNat 4 n →
    (n < 7 →
      handle .rx s = .next { s with rx := rest, decHdr := s.decHdr.set n b hn, decHcnt := BitVec.ofNat 4 (n + 1) }) ∧
    (n = 7 →
      handle .rx s =
        .next { s with
          rx := rest
          decHdr := s.decHdr.set 7 b
          decHcnt := 8#4
          decFlags := s.decHdr[3]
          decFid := fromLe16 s.decHdr[4] s.decHdr[5]
          decLen := fromLe16 s.decHdr[6] b
          decPcnt := 0#16
          decState := .headerComplete
          timer := some 0 })

/-- R168: one payload byte: DEC_PAYLOAD changes at DEC_PCNT alone, and DEC_PCNT goes up by one. -/
def Obligations.RxPayloadStoresByte : Prop :=
  ∀ (s : State) (b : Byte) (rest : List Byte), s.decState = .headerComplete → s.rx = b :: rest →
    s.decPcnt.toNat < s.decLen.toNat → Memory.wf s.decPayload →
    ∃ m : List Host.Cell,
      handle .rx s =
        .next { s with rx := rest, decPayload := m, decPcnt := BitVec.ofNat 16 (s.decPcnt.toNat + 1) } ∧
      Memory.wf m ∧
      ∀ i : Nat, Memory.read m i = if i = s.decPcnt.toNat then b else Memory.read s.decPayload i

/-- R169: the checksum byte completes the body, with its frame: both checksums, the three flags, BodyComplete. The
timer's disarming is the model's (R241; log 10). -/
def Obligations.RxChecksumCompletesBody : Prop :=
  ∀ (s : State) (b : Byte) (rest : List Byte), s.decState = .headerComplete → s.rx = b :: rest →
    s.decPcnt = s.decLen →
    ∃ c : Byte,
      c = crc8 ([s.decHdr[3], s.decHdr[4], s.decHdr[5], s.decHdr[6], s.decHdr[7]] ++
        (List.range s.decLen.toNat).map (Memory.read s.decPayload)) ∧
      handle .rx s =
        .next { s with
          rx := rest
          decCrcRx := b
          decCrcCalc := c
          decCrcOk := decide (c = b)
          decFidMatch := decide (s.decFid = s.decExpect)
          decStatusOk := decide (c = b) && decide (s.decFid = s.decExpect)
          decState := .bodyComplete
          timer := none }

/-- R176: Timeout ends the phase it falls in; in an inactive state it has no step. What is not listed stays (log 11);
the timer's disarming is the model's (R241; log 10). -/
def Obligations.TimeoutFailsActivePhase : Prop :=
  ∀ s : State,
    (Spec.DecInactive s → handle .timeout s = .next s) ∧
    (∀ p : FailPhase,
      (s.decState = .scanning ∧ p = .scan) ∨ (s.decState = .headerRead ∧ p = .header) ∨
        (s.decState = .headerComplete ∧ p = .body) →
      handle .timeout s =
        .next { s with
          decFailPhase := p
          decFlags := 0x00#8
          decFid := 0#16
          decLen := 0#16
          decState := .failed
          timer := none })

/-- R177, R241 (the timer as the model's environment, log 10): passing time only advances the timer until the phase's
deadline, and then the Timeout event happens; a disarmed timer does nothing. -/
def Obligations.DeadlineTimerRaisesTimeout : Prop :=
  ∀ (s : State) (d elapsed deadline : Nat),
    (s.timer = some elapsed →
      (s.decState = .scanning ∧ deadline = Config.tScan) ∨ (s.decState = .headerRead ∧ deadline = Config.tHdr) ∨
        (s.decState = .headerComplete ∧ deadline = Config.tBody) →
      handle (.elapse d) s =
        if deadline ≤ elapsed + d then handle .timeout s else .next { s with timer := some (elapsed + d) }) ∧
    (s.timer = none → handle (.elapse d) s = .next s)

/-- R170: the scan leaves Scanning at the first place where the last three bytes are the preamble, and not before; it
then has discarded everything scanned. Bytes that arrive as one wire event are the model's choice (log 4). -/
def Obligations.ScanLeavesAtFirstPreamble : Prop :=
  ∀ (s : State) (g : List Byte), s.decState = .scanning → s.decTail = [] → s.rx = [] →
    ¬ [0x24#8, 0x58#8, 0x3E#8] <:+: g →
    handle (.wire g) s = .next { s with decTail := lastN g 64 } ∧
    ∃ t : State,
      handle (.wire (g ++ [0x24#8, 0x58#8, 0x3E#8])) s = .next t ∧ t.decState = .headerRead ∧ t.decHcnt = 3#4 ∧
        t.decTail = [] ∧ t.rx = [] ∧ t.decHdr.toList.take 3 = [0x24#8, 0x58#8, 0x3E#8] ∧
        Spec.OutsideDecUnchanged s t

/-- R170, R172, R173, R175: DEC_START, noise without the preamble, then a response with any flags, id, payload and
trailing byte, ends in BodyComplete with exactly that Response, whether the trailing byte matches or not; the bytes
after the frame stay pending. Bytes that arrive as one wire event are the model's choice (log 4). -/
def Obligations.DecodeYieldsResponseAfterNoise : Prop :=
  ∀ (s : State) (expect fid : Half) (flags chk : Byte) (noise payload after : List Byte),
    Spec.DecInactive s → s.rx = [] → payload.length ≤ 65535 → ¬ [0x24#8, 0x58#8, 0x3E#8] <:+: noise →
    Memory.wf s.decPayload →
    ∃ t : State,
      handleAll [Spec.decodeStart expect, .wire (noise ++ responseFrame flags fid payload chk ++ after)] s = .next t ∧
      t.decState = .bodyComplete ∧ t.rx = after ∧ t.decExpect = expect ∧ t.decLen.toNat = payload.length ∧
      t.response =
        some
          { fid := fid
            payload := payload
            flags := flags
            crcCalc := crc8 (frameRegion flags fid payload)
            crcRx := chk
            crcOk := decide (crc8 (frameRegion flags fid payload) = chk)
            fidMatch := decide (fid = expect)
            statusOk := decide (crc8 (frameRegion flags fid payload) = chk) && decide (fid = expect) } ∧
      Spec.OutsideDecUnchanged s t

/-- R174: what ENC emits for an id and a payload, with byte 2 changed to `>`, decodes to that id and payload with all
three result flags set. Bytes that arrive as one wire event are the model's choice (log 4). -/
def Obligations.EncodeThenDecodeRoundTrip : Prop :=
  ∀ (s : State) (fid : Half) (payload : List Byte),
    s.encBusy = false → Spec.DecInactive s → s.rx = [] → payload.length ≤ 65535 → Memory.wf s.decPayload →
    ∃ (f : List Byte) (t u : State),
      handleAll (Spec.encodeEvents fid payload) s = .next t ∧ t.tx = s.tx ++ f ∧
      handleAll [Spec.decodeStart fid, .wire (f.set 2 0x3E#8)] t = .next u ∧
      u.decState = .bodyComplete ∧ u.decFid = fid ∧ u.decLen.toNat = payload.length ∧
      (∀ i : Nat, i < payload.length → some (u.portDecPayload i) = payload[i]?) ∧
      u.decCrcOk = true ∧ u.decFidMatch = true ∧ u.decStatusOk = true

/-- R273: any change of one byte of the flags, the function id, the payload or the checksum of a well-formed response
is reported: DEC ends in BodyComplete with DEC_CRC_OK = 0. Bytes that arrive as one wire event are the model's choice
(log 4). -/
def Obligations.CorruptedByteIsReported : Prop :=
  ∀ (s : State) (expect fid : Half) (flags v : Byte) (payload : List Byte) (k : Nat),
    Spec.DecInactive s → s.rx = [] → payload.length ≤ 65535 → Memory.wf s.decPayload →
    (3 ≤ k ∧ k < 6 ∨ 8 ≤ k ∧ k < 9 + payload.length) →
    (responseFrame flags fid payload (crc8 (frameRegion flags fid payload)))[k]? ≠ some v →
    ∃ t : State,
      handleAll [Spec.decodeStart expect,
        .wire ((responseFrame flags fid payload (crc8 (frameRegion flags fid payload))).set k v)] s = .next t ∧
      t.decState = .bodyComplete ∧ t.decCrcOk = false ∧ t.decStatusOk = false

/-- R163: a failed decode shows no Response, not a partial one. -/
def Obligations.FailedDecodeShowsNoResponse : Prop :=
  ∀ s : State, Inv s → s.decState = .failed →
    s.decFid = 0#16 ∧ s.decLen = 0#16 ∧ s.decFlags = 0x00#8 ∧ (∀ i : Nat, s.portDecPayload i = 0x00#8) ∧
      s.decCrcOk = false ∧ s.decFidMatch = false ∧ s.decStatusOk = false ∧ s.response = none

/-- R171: DEC_STATUS_OK = 1 means a Response is present, its checksum holds and its id is the expected one; in Failed
it is 0. -/
def Obligations.StatusOkMeansValidResponse : Prop :=
  ∀ s : State, Inv s →
    (s.decStatusOk = true →
      s.decState = .bodyComplete ∧ s.decCrcOk = true ∧ s.decFid = s.decExpect ∧ s.response.isSome = true ∧
        s.decCrcRx = crc8 s.checksumRegion) ∧
    (s.decState = .failed → s.decStatusOk = false)

/-- R178: in HeaderRead and HeaderComplete a bounded number of bytes ends the decode, and in every active phase one
Timeout does. Bytes that arrive as one wire event are the model's choice (log 4); fairness is not assumed (log 17). -/
def Obligations.DecodeTerminates : Prop :=
  ∀ s : State, Inv s → s.rx = [] →
    (s.decState.active = true → ∃ t, handle .timeout s = .next t ∧ t.decState = .failed) ∧
    (∀ bs : List Byte, s.decState = .headerRead → bs.length = 8 - s.decHcnt.toNat →
      ∃ t, handle (.wire bs) s = .next t ∧ t.decState = .headerComplete ∧ t.rx = []) ∧
    (∀ bs : List Byte, s.decState = .headerComplete → bs.length = s.decLen.toNat - s.decPcnt.toNat + 1 →
      ∃ t, handle (.wire bs) s = .next t ∧ t.decState = .bodyComplete ∧ t.rx = [])

/-- R165, R176, R126, R143: DEC's own events leave CRCU, ENC, RCF, the command-error record and TX as they are.
The events arrive and wire (log 4) and passing time (log 10) are the model's. -/
def Obligations.DecEventsTouchOnlyDec : Prop :=
  ∀ (e : Event) (s : State),
    e = .rx ∨ e = .timeout ∨ (∃ d, e = .elapse d) ∨ (∃ b, e = .arrive b) ∨ (∃ bs, e = .wire bs) →
    ∃ t, handle e s = .next t ∧ Spec.OutsideDecUnchanged s t

/-- R38: DEC_CAUSE is the stated function of the other DEC state. -/
def Obligations.DecCauseSummary : Prop :=
  ∀ s : State,
    (s.decState = .failed → s.decCause = 1#2) ∧
    (s.decState = .bodyComplete → s.decCrcOk = false → s.decCause = 2#2) ∧
    (s.decState = .bodyComplete → s.decCrcOk = true → s.decFidMatch = false → s.decCause = 3#2) ∧
    (s.decState = .bodyComplete → s.decCrcOk = true → s.decFidMatch = true → s.decCause = 0#2) ∧
    (s.decState ≠ .failed → s.decState ≠ .bodyComplete → s.decCause = 0#2)

/-! ### The frame rows of the table -/

/-- R81, R87 (their meaning as bytes on RX is the model's, log 3): each frame row completes, in every state: its bytes
arrive in stream order, each with its Rx event. -/
def Obligations.FrameRowsArriveOnRx : Prop :=
  ∀ s : State,
    (∀ (i : Instr) (lo : Byte),
      (i, lo) ∈ [(Instr.fidStatus, 0x65#8), (.fidRawImu, 0x66#8), (.fidRc, 0x69#8), (.fidGps, 0x6B#8),
        (.fidAltitude, 0x6D#8), (.fidSetRawRc, 0xC8#8)] →
      ∃ t, exec i s = .next t ∧ handleAll [.arrive lo, .rx, .arrive 0x00#8, .rx] s = .next t ∧
        Spec.OutsideDecUnchanged s t) ∧
    (∀ (i : Instr) (dir : Byte), (i, dir) ∈ [(Instr.preambleRequest, 0x3C#8), (.preambleResponse, 0x3E#8)] →
      ∃ t, exec i s = .next t ∧
        handleAll [.arrive 0x24#8, .rx, .arrive 0x58#8, .rx, .arrive dir, .rx] s = .next t ∧
        Spec.OutsideDecUnchanged s t)

/-- R166, R91, R167, R165 (for the rows' meaning, log 3): in Scanning the response preamble starts the header and the
request preamble is noise; in HeaderRead at offset 4 a function id fills header bytes 4 and 5; when DEC is inactive the
bytes stay pending. -/
def Obligations.FrameRowsDriveDecoder : Prop :=
  ∀ s : State,
    (s.decState = .scanning → s.rx = [] →
      (∃ t, exec .preambleResponse s = .next t ∧ t.decState = .headerRead ∧ t.decHcnt = 3#4 ∧ t.rx = []) ∧
      exec .preambleRequest s = .next { s with decTail := lastN (s.decTail ++ [0x24#8, 0x58#8, 0x3C#8]) 64 }) ∧
    (s.decState = .headerRead → s.rx = [] → s.decHcnt = 4#4 →
      exec .fidStatus s =
        .next { s with decHdr := (s.decHdr.set 4 0x65#8).set 5 0x00#8, decHcnt := 6#4 }) ∧
    (Spec.DecInactive s → exec .fidRc s = .next { s with rx := s.rx ++ [0x69#8, 0x00#8] })

/-! ### RC channels -/

/-- R202, R208: RC_SET stores any value in one channel and changes nothing else. -/
def Obligations.RcSetWritesOneChannel : Prop :=
  ∀ (index : BitVec 4) (value : Half) (s : State),
    handle (.cmd (Spec.word 0x30#8 (0#12 ++ index ++ value))) s = exec (.rcSet index value) s ∧
    (∀ hi : BitVec 12, hi ≠ 0#12 →
      handle (.cmd (Spec.word 0x30#8 (hi ++ index ++ value))) s = .next (Spec.rejected s .reservedBits 0x30#8)) ∧
    ∃ v : Vector Half 16,
      exec (.rcSet index value) s = .next { s with rc := v } ∧
      ∀ i : Fin 16, v[i] = if i.val = index.toNat then value else s.rc[i]

/-- R203, R204, R205: the three load commands, with their frames and their rejections. -/
def Obligations.RcLoadCommands : Prop :=
  ∀ s : State,
    (s.rcLoading = false → exec .rcLoadBegin s = .next { s with rcLoading := true, rcLcnt := 0#5 }) ∧
    (s.rcLoading = true → exec .rcLoadBegin s = .next (Spec.rejected s .loadState 0x31#8)) ∧
    (∀ value : Half,
      (s.rcLoading = true → s.rcLcnt.toNat < 16 →
        ∃ v : Vector Half 16,
          exec (.rcLoadVal value) s =
            .next { s with rcStage := v, rcLcnt := BitVec.ofNat 5 (s.rcLcnt.toNat + 1) } ∧
          ∀ i : Fin 16, v[i] = if i.val = s.rcLcnt.toNat then value else s.rcStage[i]) ∧
      (s.rcLoading = true → 16 ≤ s.rcLcnt.toNat → exec (.rcLoadVal value) s = .next s) ∧
      (s.rcLoading = false → exec (.rcLoadVal value) s = .next (Spec.rejected s .loadState 0x32#8)) ∧
      handle (.cmd (Spec.word 0x32#8 (0#16 ++ value))) s = exec (.rcLoadVal value) s ∧
      (∀ hi : BitVec 16, hi ≠ 0#16 →
        handle (.cmd (Spec.word 0x32#8 (hi ++ value))) s = .next (Spec.rejected s .reservedBits 0x32#8))) ∧
    (s.rcLoading = true →
      ∃ v : Vector Half 16,
        exec .rcLoadEnd s = .next { s with rc := v, rcLoading := false, rcLcnt := 0#5 } ∧
        ∀ i : Fin 16, v[i] = if i.val < s.rcLcnt.toNat then s.rcStage[i] else 1500#16) ∧
    (s.rcLoading = false → exec .rcLoadEnd s = .next (Spec.rejected s .loadState 0x33#8)) ∧
    handle (.cmd (Spec.word 0x31#8 0#32)) s = exec .rcLoadBegin s ∧
    handle (.cmd (Spec.word 0x33#8 0#32)) s = exec .rcLoadEnd s ∧
    (∀ arg : BitVec 32, arg ≠ 0#32 →
      handle (.cmd (Spec.word 0x31#8 arg)) s = .next (Spec.rejected s .reservedBits 0x31#8) ∧
      handle (.cmd (Spec.word 0x33#8 arg)) s = .next (Spec.rejected s .reservedBits 0x33#8))

/-- R207: loading a list truncates it to 16 values or pads it with 1500, whatever RC held; no command is rejected and
nothing outside RCF changes. -/
def Obligations.ClampOrPadLaw : Prop :=
  ∀ (vs : List Half) (s : State), s.rcLoading = false →
    ∃ (v stage : Vector Half 16),
      handleAll (Spec.loadEvents vs) s = .next { s with rc := v, rcStage := stage, rcLcnt := 0#5 } ∧
      ∀ i : Fin 16, v[i] = if h : i.val < vs.length then vs[i.val] else 1500#16

/-- R206: the serialized registers are 32 bytes, byte 2i the low and byte 2i+1 the high byte of RC[i]. -/
def Obligations.RcSerializeLayout : Prop :=
  ∀ s : State,
    s.rcSerialize.length = 32 ∧
    ∀ i : Fin 16,
      s.rcSerialize[2 * i.val]? = some (s.rc[i].extractLsb' 0 8) ∧
      s.rcSerialize[2 * i.val + 1]? = some (s.rc[i].extractLsb' 8 8)

/-- R61: RC changes only by RC_SET, RC_LOAD_END and Reset. -/
def Obligations.OnlyRcfCommandsChangeRc : Prop :=
  ∀ (e : Event) (s t : State), handle e s = .next t → t.rc ≠ s.rc →
    e = .reset ∨ ∃ w, e = .cmd w ∧ w.extractLsb' 32 8 ∈ [0x30#8, 0x33#8]

/-- R277: during a load, an RC_SET is overwritten by the commit, and an ENC_RC sends the values from before the load. -/
def Obligations.RcUpdatesDuringLoad : Prop :=
  (∀ (index : BitVec 4) (value : Half) (s : State), s.rcLoading = true →
    handleAll [.cmd (Spec.word 0x30#8 (0#12 ++ index ++ value)), .cmd (Spec.word 0x33#8 0#32)] s =
      handle (.cmd (Spec.word 0x33#8 0#32)) s) ∧
  (∀ (vs : List Half) (s t u : State), s.rcLoading = false →
    handleAll ((Spec.loadEvents vs).dropLast ++ [.cmd (Spec.word 0x12#8 0#32)]) s = .next t →
    handle (.cmd (Spec.word 0x12#8 0#32)) s = .next u → t.tx = u.tx)

/-! ### Status, ports and flags -/

/-- R45: every field of STATUS is at its bits and reads its register; bits 31 to 16 read 0; STATUS is 0 at reset. -/
def Obligations.StatusWordFields : Prop :=
  ∀ s : State,
    s.status.extractLsb' 0 1 = BitVec.ofBool s.encBusy ∧
    s.status.extractLsb' 1 3 = s.decState.code ∧
    s.status.extractLsb' 4 1 = BitVec.ofBool s.decCrcOk ∧
    s.status.extractLsb' 5 1 = BitVec.ofBool s.decFidMatch ∧
    s.status.extractLsb' 6 1 = BitVec.ofBool s.decStatusOk ∧
    s.status.extractLsb' 7 2 = s.decFailPhase.code ∧
    s.status.extractLsb' 9 2 = s.decCause ∧
    s.status.extractLsb' 11 1 = BitVec.ofBool s.rcLoading ∧
    s.status.extractLsb' 12 1 = BitVec.ofBool s.ill ∧
    s.status.extractLsb' 13 3 = s.illCause.code ∧
    s.status.extractLsb' 16 16 = 0#16 ∧
    State.reset.status = 0#32

/-- R46: the ports read their registers; the payload port reads the buffer only in BodyComplete and below DEC_LEN. -/
def Obligations.OutputPortsReadRegisters : Prop :=
  ∀ s : State,
    s.portStatus = s.status ∧ s.portCrcOut = s.crcAcc ∧
    s.portEncFid = s.encFid ∧ s.portEncLen = s.encLen ∧ s.portEncRemain = s.encRemain ∧ s.portEncCrc = s.encCrc ∧
    s.portDecExpect = s.decExpect ∧ s.portDecFid = s.decFid ∧ s.portDecLen = s.decLen ∧
    s.portDecFlags = s.decFlags ∧ s.portDecCrcCalc = s.decCrcCalc ∧ s.portDecCrcRx = s.decCrcRx ∧
    (∀ i : Nat, s.decState = .bodyComplete → i < s.decLen.toNat → s.portDecPayload i = Memory.read s.decPayload i) ∧
    (∀ i : Nat, s.decState ≠ .bodyComplete ∨ s.decLen.toNat ≤ i → s.portDecPayload i = 0x00#8) ∧
    (∀ i : BitVec 4, ∀ h : i.toNat < 16, s.portRc i = s.rc[i.toNat]) ∧ s.portIllOp = s.illOp

/-- R47: each status flag is set and cleared only by the events its row names. -/
def Obligations.StatusFlagsLifetime : Prop :=
  ∀ (e : Event) (s t : State), handle e s = .next t →
    (s.encBusy = false → t.encBusy = true →
      ∃ w, e = .cmd w ∧ w.extractLsb' 32 8 = 0x10#8 ∧ w.extractLsb' 16 16 ≠ 0#16) ∧
    (s.encBusy = true → t.encBusy = false →
      e = .reset ∨ ∃ w, e = .cmd w ∧ w.extractLsb' 32 8 = 0x11#8 ∧ s.encRemain = 1#16) ∧
    (t.decCrcOk ≠ s.decCrcOk ∨ t.decFidMatch ≠ s.decFidMatch ∨ t.decStatusOk ≠ s.decStatusOk →
      e = .reset ∨ (∃ w, e = .cmd w ∧ w.extractLsb' 32 8 = 0x20#8) ∨
        (¬ Spec.DecInactive s ∧ t.decState = .bodyComplete)) ∧
    (s.rcLoading = false → t.rcLoading = true → ∃ w, e = .cmd w ∧ w.extractLsb' 32 8 = 0x31#8) ∧
    (s.rcLoading = true → t.rcLoading = false → e = .reset ∨ ∃ w, e = .cmd w ∧ w.extractLsb' 32 8 = 0x33#8) ∧
    (s.ill = false → t.ill = true → ∃ w c, e = .cmd w ∧ t = Spec.rejected s c (w.extractLsb' 32 8)) ∧
    (s.ill = true → t.ill = false → e = .reset)

/-- R69: issuing NOP, CRC_CLR, RC_SET, RC_LOAD_VAL at 16, or a rejected command twice in a row is issuing it once. -/
def Obligations.IdempotentCommands : Prop :=
  ∀ (w : CmdWord) (s : State),
    (w = Spec.word 0x00#8 0#32 ∨ w = Spec.word 0x01#8 0#32 ∨
      (∃ (index : BitVec 4) (value : Half), w = Spec.word 0x30#8 (0#12 ++ index ++ value)) ∨
      (∃ value : Half, w = Spec.word 0x32#8 (0#16 ++ value) ∧ s.rcLoading = true ∧ s.rcLcnt = 16#5) ∨
      ∃ c, handle (.cmd w) s = .next (Spec.rejected s c (w.extractLsb' 32 8))) →
    handleAll [.cmd w, .cmd w] s = handle (.cmd w) s

/-! ### Reset and the invariant -/

/-- R260, R262: Reset puts every register R260 gives a value at that value, clears STATUS, and leaves TX and the pending
RX bytes. DEC_PAYLOAD and RC_STAGE, which R260 leaves unspecified, are not named here. -/
def Obligations.ResetEventValues : Prop :=
  ∀ s : State, ∃ t : State,
    handle .reset s = .next t ∧
    t.crcAcc = 0x00#8 ∧ t.encBusy = false ∧ t.encFid = 0#16 ∧ t.encLen = 0#16 ∧ t.encRemain = 0#16 ∧
    t.encCrc = 0x00#8 ∧ t.decState = .idle ∧ t.decExpect = 0#16 ∧ t.decTail = [] ∧
    (∀ i : Fin 8, t.decHdr[i] = 0x00#8) ∧ t.decHcnt = 0#4 ∧ t.decFlags = 0x00#8 ∧ t.decFid = 0#16 ∧
    t.decLen = 0#16 ∧ t.decPcnt = 0#16 ∧ t.decCrcCalc = 0x00#8 ∧ t.decCrcRx = 0x00#8 ∧ t.decCrcOk = false ∧
    t.decFidMatch = false ∧ t.decStatusOk = false ∧ t.decFailPhase = .none ∧ (∀ i : Fin 16, t.rc[i] = 1500#16) ∧
    t.rcLoading = false ∧ t.rcLcnt = 0#5 ∧ t.ill = false ∧ t.illCause = .none ∧ t.illOp = 0x00#8 ∧
    t.status = 0#32 ∧ t.tx = s.tx ∧ t.rx = s.rx

/-- R263: at power-on the block is in the state Reset gives, with an empty TX history. RX and the schedule empty (log 15)
and DEC_PAYLOAD and RC_STAGE zero (log 7) are the model's choice. -/
def Obligations.PowerOnIsResetState : Prop :=
  ∀ s : State, handle .reset { s with tx := [], rx := [], events := [] } = .next State.reset

/-- The invariant of the registers (R27, R31 to R37, R40, R42, R127, R163) holds at reset, and so does the encoder's
invariant over TX. The clauses on the timer (log 10) and on the buffer's canonical form (log 7) are the model's. -/
def Obligations.InvariantHoldsAtReset : Prop := Inv State.reset ∧ EncStreamOk State.reset

/-- From every state that meets the invariant a step answers a next state (R236: no error stops the block) that meets it
again (R27, R31 to R37, R40, R42, R127, R163).
The clauses on the timer (log 10) and on the buffer's canonical form (log 7) are the model's. -/
def Obligations.StepKeepsInvariant : Prop := ∀ s : State, Inv s → ∃ t : State, step s = .next t ∧ Inv t

/-! ### The assembler -/

/-- R100: an operand outside its field is refused, and every other line is the command word of its format. -/
def Obligations.AssemblerChecksOperands : Prop :=
  ∀ n m : Nat,
    assemble (.crcByte n) =
      (if n ≤ 0xFF then some [.cmd (Spec.word 0x02#8 (BitVec.ofNat 32 n))] else none) ∧
    assemble (.encData n) =
      (if n ≤ 0xFF then some [.cmd (Spec.word 0x11#8 (BitVec.ofNat 32 n))] else none) ∧
    assemble (.encStart n m) =
      (if n ≤ 0xFFFF ∧ m ≤ 0xFFFF then some [.cmd (Spec.word 0x10#8 (BitVec.ofNat 32 (m * 65536 + n)))] else none) ∧
    assemble (.decStart n) =
      (if n ≤ 0xFFFF then some [.cmd (Spec.word 0x20#8 (BitVec.ofNat 32 n))] else none) ∧
    assemble (.rcSet n m) =
      (if n ≤ 15 ∧ m ≤ 0xFFFF then some [.cmd (Spec.word 0x30#8 (BitVec.ofNat 32 (n * 65536 + m)))] else none) ∧
    assemble (.rcLoadVal n) =
      (if n ≤ 0xFFFF then some [.cmd (Spec.word 0x32#8 (BitVec.ofNat 32 n))] else none)

/-- R101: the pseudo-instructions expand to the listed commands in order. R100: RX, TIMEOUT and RESET lines become their
events; that an RX line is one wire event for each byte is the model's choice (DESIGN CHOICE, log 4). -/
def Obligations.PseudoInstructionsExpand : Prop :=
  (∀ (fid : Half) (bs : List Byte), bs.length ≤ 65535 →
    assemble (.enc fid.toNat (bs.map BitVec.toNat)) = some (Spec.encodeEvents fid bs)) ∧
  (∀ (fid : Nat) (bs : List Nat), 65535 < bs.length → assemble (.enc fid bs) = none) ∧
  (∀ fid : Half, assemble (.enc0 fid.toNat) = assemble (.encStart fid.toNat 0)) ∧
  (∀ bs : List Byte,
    assemble (.crc (bs.map BitVec.toNat)) =
      some (.cmd (Spec.word 0x01#8 0#32) :: bs.map fun b => Event.cmd (Spec.word 0x02#8 (0#24 ++ b))) ∧
    assemble (.rx (bs.map BitVec.toNat)) = some (bs.map fun b => Event.wire [b])) ∧
  (∀ vs : List Half, assemble (.rcLoad (vs.map BitVec.toNat)) = some (Spec.loadEvents vs)) ∧
  assemble .statusQuery = some [.cmd (Spec.word 0x10#8 101#32), Spec.decodeStart 101#16] ∧
  assemble .timeout = some [.timeout] ∧ assemble .reset = some [.reset]
end

