-- ==== Sys2Proof/Laws/Bits.lean ====
section
/-!
SUPPORT. Fields of concatenated bit vectors, and the byte order of 16-bit values.
-/

namespace Sys2Proof

/-- A field inside the low part of a concatenation. -/
theorem extract_append_low {n m : Nat} (x : BitVec n) (y : BitVec m) (s l : Nat) (h : s + l ≤ m) :
    (x ++ y).extractLsb' s l = y.extractLsb' s l := by
  apply BitVec.eq_of_getLsbD_eq
  intro i hi
  simp only [BitVec.getLsbD_append, BitVec.getLsbD_extractLsb']
  rw [if_pos (by omega)]

/-- A field inside the high part of a concatenation. -/
theorem extract_append_high {n m : Nat} (x : BitVec n) (y : BitVec m) (s l : Nat) (h : m ≤ s) :
    (x ++ y).extractLsb' s l = x.extractLsb' (s - m) l := by
  apply BitVec.eq_of_getLsbD_eq
  intro i hi
  simp only [BitVec.getLsbD_append, BitVec.getLsbD_extractLsb']
  rw [if_neg (by omega)]
  simp [Nat.sub_add_comm h]

/-- A value is its high part followed by its low part. -/
theorem append_extract {m : Nat} (k s : Nat) (w : BitVec m) (h : m = s + k) :
    ((w.extractLsb' s k ++ w.extractLsb' 0 s).cast (by omega) : BitVec m) = w := by
  subst h
  apply BitVec.eq_of_getLsbD_eq
  intro i hi
  simp only [BitVec.getLsbD_cast, BitVec.getLsbD_append, BitVec.getLsbD_extractLsb']
  split
  · simp_all
  · have : i - s < k := by omega
    simp [this]
    congr 1
    omega

namespace Machine

@[simp] theorem length_le16 (v : Half) : (le16 v).length = 2 := rfl

/-- `from_le16` reads back what `le16` writes (R10). -/
@[simp] theorem fromLe16_le16 (v : Half) : fromLe16 (v.extractLsb' 0 8) (v.extractLsb' 8 8) = v :=
  append_extract 8 8 v rfl

/-- `le16` writes back what `from_le16` reads (R10). -/
@[simp] theorem le16_fromLe16 (lo hi : Byte) : le16 (fromLe16 lo hi) = [lo, hi] := by
  simp only [le16, fromLe16]
  rw [show (hi ++ lo).extractLsb' 0 8 = lo from BitVec.extractLsb'_append_eq_right,
    show (hi ++ lo).extractLsb' 8 8 = hi from BitVec.extractLsb'_append_eq_left]

/-- `last_n` of a sequence no longer than `n` is the sequence (R10). -/
theorem lastN_of_length_le {l : List Byte} {n : Nat} (h : l.length ≤ n) : lastN l n = l := by
  simp [lastN, Nat.sub_eq_zero_of_le h]

/-- `last_n` never gives more than `n` bytes (R10). -/
theorem length_lastN_le (l : List Byte) (n : Nat) : (lastN l n).length ≤ n := by
  simp [lastN]
  omega

end Machine

end Sys2Proof
end

