-- ==== Sys2Proof/Laws/Crc.lean ====
section
/-!
SUPPORT. Small laws of the CRC function.
-/

namespace Sys2Proof.Machine

@[simp] theorem crc8From_nil (acc : Byte) : crc8From acc [] = acc := rfl

@[simp] theorem crc8From_cons (acc b : Byte) (s : List Byte) : crc8From acc (b :: s) = crc8From (crc8Update acc b) s := rfl

theorem crc8From_append (acc : Byte) (s t : List Byte) : crc8From acc (s ++ t) = crc8From (crc8From acc s) t := by
  simp [crc8From]

/-- Appending one byte is one update. -/
theorem crc8_concat (s : List Byte) (b : Byte) : crc8 (s ++ [b]) = crc8Update (crc8 s) b := by
  simp [crc8, crc8From_append]

end Sys2Proof.Machine
end

