-- ==== Sys2Proof/Laws/Memory.lean ====
section
/-!
SUPPORT. The laws of the indexed byte buffer: a read after a write, and the canonical form every write keeps.
-/

namespace Sys2Proof.Machine

@[simp] theorem Memory.read_nil (i : Nat) : Memory.read [] i = 0x00#8 := rfl

theorem Memory.wf_nil : Memory.wf [] := ⟨List.Pairwise.nil, by simp⟩

/-- An index below every listed one reads as unwritten. -/
theorem Memory.read_below {m : List Host.Cell} {i : Nat} (h : ∀ c ∈ m, i < c.1) : Memory.read m i = 0x00#8 := by
  induction m with
  | nil => rfl
  | cons c rest ih =>
    have hc := h c (by simp)
    rw [Memory.read, if_neg (by omega)]
    exact ih fun d hd => h d (by simp [hd])

/-- A write changes the byte at its index and no other. -/
theorem Memory.read_write {m : List Host.Cell} (hm : m.Pairwise (fun a c => a.1 < c.1)) (i : Nat) (b : Byte) (j : Nat) :
    Memory.read (Memory.write m i b) j = if j = i then b else Memory.read m j := by
  induction m with
  | nil => by_cases hb : b = 0x00#8 <;> by_cases hj : j = i <;> simp [Memory.write, Memory.read, hb, hj]
  | cons c rest ih =>
    obtain ⟨k, v⟩ := c
    obtain ⟨hlt, hrest⟩ := List.pairwise_cons.mp hm
    have hbelow : ∀ n, n ≤ k → Memory.read rest n = 0x00#8 := fun n hn =>
      Memory.read_below fun d hd => by have := hlt d hd; simp at this; omega
    rcases Nat.lt_trichotomy i k with h | h | h
    · have hik : i ≠ k := by omega
      by_cases hb : b = 0x00#8 <;> by_cases hj : j = i <;>
        simp [Memory.write, Memory.read, h, hb, hj, hik, hbelow i (by omega)]
    · subst h
      by_cases hb : b = 0x00#8 <;> by_cases hj : j = i <;>
        simp [Memory.write, Memory.read, hb, hj, hbelow i (by omega)]
    · have h1 : ¬ i < k := by omega
      have h2 : i ≠ k := by omega
      simp only [Memory.write, h1, h2, if_false, Memory.read, ih hrest]
      by_cases hj : j = k
      · simp [hj, Ne.symm h2]
      · simp [hj]

/-- The listed indices after a write are the old ones and the written one. -/
theorem Memory.mem_write {m : List Host.Cell} {i : Nat} {b : Byte} {c : Host.Cell} (h : c ∈ Memory.write m i b) :
    (c = (i, b) ∧ b ≠ 0x00#8) ∨ c ∈ m := by
  induction m with
  | nil => by_cases hb : b = 0x00#8 <;> simp_all [Memory.write]
  | cons d rest ih =>
    rw [Memory.write] at h
    split at h
    · split at h <;> simp_all
    · split at h
      · split at h <;> simp_all; tauto
      · rcases List.mem_cons.mp h with h | h
        · simp [h]
        · rcases ih h with h | h <;> simp [h]

/-- Every write inside the buffer keeps the canonical form. -/
theorem Memory.write_wf {m : List Host.Cell} {i : Nat} (b : Byte) (hm : Memory.wf m) (hi : i < payloadCap) :
    Memory.wf (Memory.write m i b) := by
  refine ⟨?_, fun c hc => ?_⟩
  · obtain ⟨hp, -⟩ := hm
    induction m with
    | nil => by_cases hb : b = 0x00#8 <;> simp [Memory.write, hb]
    | cons d rest ih =>
      obtain ⟨hlt, hrest⟩ := List.pairwise_cons.mp hp
      rw [Memory.write]
      split
      · split
        · exact hp
        · refine List.pairwise_cons.mpr ⟨fun e he => ?_, hp⟩
          rcases List.mem_cons.mp he with rfl | he
          · assumption
          · have := hlt e he; simp at *; omega
      · split
        · split
          · exact hrest
          · exact List.pairwise_cons.mpr ⟨fun e he => by have := hlt e he; simp at *; omega, hrest⟩
        · refine List.pairwise_cons.mpr ⟨fun e he => ?_, ih hrest⟩
          rcases Memory.mem_write he with ⟨rfl, -⟩ | he
          · simp at *; omega
          · exact hlt e he
  · rcases Memory.mem_write hc with ⟨rfl, hb⟩ | hc
    · exact ⟨hi, hb⟩
    · exact hm.2 c hc

/-- `DEC_PAYLOAD[0, n+1)` is `DEC_PAYLOAD[0, n)` and one byte more. -/
theorem Memory.readBytes_succ (m : List Host.Cell) (n : Nat) :
    Memory.readBytes m (n + 1) = Memory.readBytes m n ++ [Memory.read m n] := by
  simp [Memory.readBytes, List.range_succ]

@[simp] theorem Memory.readBytes_zero (m : List Host.Cell) : Memory.readBytes m 0 = [] := rfl

@[simp] theorem Memory.length_readBytes (m : List Host.Cell) (n : Nat) : (Memory.readBytes m n).length = n := by
  simp [Memory.readBytes]

/-- A write at or above `n` leaves `DEC_PAYLOAD[0, n)` as it was. -/
theorem Memory.readBytes_write_above {m : List Host.Cell} (hm : m.Pairwise (fun a c => a.1 < c.1)) {i n : Nat}
    (b : Byte) (h : n ≤ i) : Memory.readBytes (Memory.write m i b) n = Memory.readBytes m n := by
  refine List.map_congr_left fun j hj => ?_
  rw [Memory.read_write hm, if_neg (by have := List.mem_range.mp hj; omega)]

/-- The buffer has its canonical form at reset. -/
theorem Memory.wf_reset : Memory.wf State.reset.decPayload := Memory.wf_nil

end Sys2Proof.Machine
end

