-- ==== Sys2Proof/Laws/State.lean ====
section
/-!
SUPPORT. What each named update of the state does to each field, one lemma a field, true by definition. A later proof
rewrites with these and unfolds no update.
-/

namespace Sys2Proof.Machine

/-! ### `Emit` (R11, R62) -/

@[simp] theorem State.emit_crcAcc (s : State) (bs : List Byte) : (s.emit bs).crcAcc = s.crcAcc := rfl
@[simp] theorem State.emit_encBusy (s : State) (bs : List Byte) : (s.emit bs).encBusy = s.encBusy := rfl
@[simp] theorem State.emit_encFid (s : State) (bs : List Byte) : (s.emit bs).encFid = s.encFid := rfl
@[simp] theorem State.emit_encLen (s : State) (bs : List Byte) : (s.emit bs).encLen = s.encLen := rfl
@[simp] theorem State.emit_encRemain (s : State) (bs : List Byte) : (s.emit bs).encRemain = s.encRemain := rfl
@[simp] theorem State.emit_encCrc (s : State) (bs : List Byte) : (s.emit bs).encCrc = s.encCrc := rfl
@[simp] theorem State.emit_decState (s : State) (bs : List Byte) : (s.emit bs).decState = s.decState := rfl
@[simp] theorem State.emit_decExpect (s : State) (bs : List Byte) : (s.emit bs).decExpect = s.decExpect := rfl
@[simp] theorem State.emit_decTail (s : State) (bs : List Byte) : (s.emit bs).decTail = s.decTail := rfl
@[simp] theorem State.emit_decHdr (s : State) (bs : List Byte) : (s.emit bs).decHdr = s.decHdr := rfl
@[simp] theorem State.emit_decHcnt (s : State) (bs : List Byte) : (s.emit bs).decHcnt = s.decHcnt := rfl
@[simp] theorem State.emit_decFlags (s : State) (bs : List Byte) : (s.emit bs).decFlags = s.decFlags := rfl
@[simp] theorem State.emit_decFid (s : State) (bs : List Byte) : (s.emit bs).decFid = s.decFid := rfl
@[simp] theorem State.emit_decLen (s : State) (bs : List Byte) : (s.emit bs).decLen = s.decLen := rfl
@[simp] theorem State.emit_decPayload (s : State) (bs : List Byte) : (s.emit bs).decPayload = s.decPayload := rfl
@[simp] theorem State.emit_decPcnt (s : State) (bs : List Byte) : (s.emit bs).decPcnt = s.decPcnt := rfl
@[simp] theorem State.emit_decCrcCalc (s : State) (bs : List Byte) : (s.emit bs).decCrcCalc = s.decCrcCalc := rfl
@[simp] theorem State.emit_decCrcRx (s : State) (bs : List Byte) : (s.emit bs).decCrcRx = s.decCrcRx := rfl
@[simp] theorem State.emit_decCrcOk (s : State) (bs : List Byte) : (s.emit bs).decCrcOk = s.decCrcOk := rfl
@[simp] theorem State.emit_decFidMatch (s : State) (bs : List Byte) : (s.emit bs).decFidMatch = s.decFidMatch := rfl
@[simp] theorem State.emit_decStatusOk (s : State) (bs : List Byte) : (s.emit bs).decStatusOk = s.decStatusOk := rfl
@[simp] theorem State.emit_decFailPhase (s : State) (bs : List Byte) : (s.emit bs).decFailPhase = s.decFailPhase := rfl
@[simp] theorem State.emit_rc (s : State) (bs : List Byte) : (s.emit bs).rc = s.rc := rfl
@[simp] theorem State.emit_rcLoading (s : State) (bs : List Byte) : (s.emit bs).rcLoading = s.rcLoading := rfl
@[simp] theorem State.emit_rcLcnt (s : State) (bs : List Byte) : (s.emit bs).rcLcnt = s.rcLcnt := rfl
@[simp] theorem State.emit_rcStage (s : State) (bs : List Byte) : (s.emit bs).rcStage = s.rcStage := rfl
@[simp] theorem State.emit_ill (s : State) (bs : List Byte) : (s.emit bs).ill = s.ill := rfl
@[simp] theorem State.emit_illCause (s : State) (bs : List Byte) : (s.emit bs).illCause = s.illCause := rfl
@[simp] theorem State.emit_illOp (s : State) (bs : List Byte) : (s.emit bs).illOp = s.illOp := rfl
@[simp] theorem State.emit_tx (s : State) (bs : List Byte) : (s.emit bs).tx = s.tx ++ bs := rfl
@[simp] theorem State.emit_rx (s : State) (bs : List Byte) : (s.emit bs).rx = s.rx := rfl
@[simp] theorem State.emit_timer (s : State) (bs : List Byte) : (s.emit bs).timer = s.timer := rfl
@[simp] theorem State.emit_events (s : State) (bs : List Byte) : (s.emit bs).events = s.events := rfl

/-! ### A byte arrives on RX (R44) -/

@[simp] theorem State.arrive_crcAcc (s : State) (b : Byte) : (s.arrive b).crcAcc = s.crcAcc := rfl
@[simp] theorem State.arrive_encBusy (s : State) (b : Byte) : (s.arrive b).encBusy = s.encBusy := rfl
@[simp] theorem State.arrive_encFid (s : State) (b : Byte) : (s.arrive b).encFid = s.encFid := rfl
@[simp] theorem State.arrive_encLen (s : State) (b : Byte) : (s.arrive b).encLen = s.encLen := rfl
@[simp] theorem State.arrive_encRemain (s : State) (b : Byte) : (s.arrive b).encRemain = s.encRemain := rfl
@[simp] theorem State.arrive_encCrc (s : State) (b : Byte) : (s.arrive b).encCrc = s.encCrc := rfl
@[simp] theorem State.arrive_decState (s : State) (b : Byte) : (s.arrive b).decState = s.decState := rfl
@[simp] theorem State.arrive_decExpect (s : State) (b : Byte) : (s.arrive b).decExpect = s.decExpect := rfl
@[simp] theorem State.arrive_decTail (s : State) (b : Byte) : (s.arrive b).decTail = s.decTail := rfl
@[simp] theorem State.arrive_decHdr (s : State) (b : Byte) : (s.arrive b).decHdr = s.decHdr := rfl
@[simp] theorem State.arrive_decHcnt (s : State) (b : Byte) : (s.arrive b).decHcnt = s.decHcnt := rfl
@[simp] theorem State.arrive_decFlags (s : State) (b : Byte) : (s.arrive b).decFlags = s.decFlags := rfl
@[simp] theorem State.arrive_decFid (s : State) (b : Byte) : (s.arrive b).decFid = s.decFid := rfl
@[simp] theorem State.arrive_decLen (s : State) (b : Byte) : (s.arrive b).decLen = s.decLen := rfl
@[simp] theorem State.arrive_decPayload (s : State) (b : Byte) : (s.arrive b).decPayload = s.decPayload := rfl
@[simp] theorem State.arrive_decPcnt (s : State) (b : Byte) : (s.arrive b).decPcnt = s.decPcnt := rfl
@[simp] theorem State.arrive_decCrcCalc (s : State) (b : Byte) : (s.arrive b).decCrcCalc = s.decCrcCalc := rfl
@[simp] theorem State.arrive_decCrcRx (s : State) (b : Byte) : (s.arrive b).decCrcRx = s.decCrcRx := rfl
@[simp] theorem State.arrive_decCrcOk (s : State) (b : Byte) : (s.arrive b).decCrcOk = s.decCrcOk := rfl
@[simp] theorem State.arrive_decFidMatch (s : State) (b : Byte) : (s.arrive b).decFidMatch = s.decFidMatch := rfl
@[simp] theorem State.arrive_decStatusOk (s : State) (b : Byte) : (s.arrive b).decStatusOk = s.decStatusOk := rfl
@[simp] theorem State.arrive_decFailPhase (s : State) (b : Byte) : (s.arrive b).decFailPhase = s.decFailPhase := rfl
@[simp] theorem State.arrive_rc (s : State) (b : Byte) : (s.arrive b).rc = s.rc := rfl
@[simp] theorem State.arrive_rcLoading (s : State) (b : Byte) : (s.arrive b).rcLoading = s.rcLoading := rfl
@[simp] theorem State.arrive_rcLcnt (s : State) (b : Byte) : (s.arrive b).rcLcnt = s.rcLcnt := rfl
@[simp] theorem State.arrive_rcStage (s : State) (b : Byte) : (s.arrive b).rcStage = s.rcStage := rfl
@[simp] theorem State.arrive_ill (s : State) (b : Byte) : (s.arrive b).ill = s.ill := rfl
@[simp] theorem State.arrive_illCause (s : State) (b : Byte) : (s.arrive b).illCause = s.illCause := rfl
@[simp] theorem State.arrive_illOp (s : State) (b : Byte) : (s.arrive b).illOp = s.illOp := rfl
@[simp] theorem State.arrive_tx (s : State) (b : Byte) : (s.arrive b).tx = s.tx := rfl
@[simp] theorem State.arrive_rx (s : State) (b : Byte) : (s.arrive b).rx = s.rx ++ [b] := rfl
@[simp] theorem State.arrive_timer (s : State) (b : Byte) : (s.arrive b).timer = s.timer := rfl
@[simp] theorem State.arrive_events (s : State) (b : Byte) : (s.arrive b).events = s.events := rfl

/-! ### `raise IllegalCommand` (R234) -/

@[simp] theorem State.raiseIllegal_crcAcc (s : State) (c : IllCause) (op : Byte) : (s.raiseIllegal c op).crcAcc = s.crcAcc := rfl
@[simp] theorem State.raiseIllegal_encBusy (s : State) (c : IllCause) (op : Byte) : (s.raiseIllegal c op).encBusy = s.encBusy := rfl
@[simp] theorem State.raiseIllegal_encFid (s : State) (c : IllCause) (op : Byte) : (s.raiseIllegal c op).encFid = s.encFid := rfl
@[simp] theorem State.raiseIllegal_encLen (s : State) (c : IllCause) (op : Byte) : (s.raiseIllegal c op).encLen = s.encLen := rfl
@[simp] theorem State.raiseIllegal_encRemain (s : State) (c : IllCause) (op : Byte) : (s.raiseIllegal c op).encRemain = s.encRemain := rfl
@[simp] theorem State.raiseIllegal_encCrc (s : State) (c : IllCause) (op : Byte) : (s.raiseIllegal c op).encCrc = s.encCrc := rfl
@[simp] theorem State.raiseIllegal_decState (s : State) (c : IllCause) (op : Byte) : (s.raiseIllegal c op).decState = s.decState := rfl
@[simp] theorem State.raiseIllegal_decExpect (s : State) (c : IllCause) (op : Byte) : (s.raiseIllegal c op).decExpect = s.decExpect := rfl
@[simp] theorem State.raiseIllegal_decTail (s : State) (c : IllCause) (op : Byte) : (s.raiseIllegal c op).decTail = s.decTail := rfl
@[simp] theorem State.raiseIllegal_decHdr (s : State) (c : IllCause) (op : Byte) : (s.raiseIllegal c op).decHdr = s.decHdr := rfl
@[simp] theorem State.raiseIllegal_decHcnt (s : State) (c : IllCause) (op : Byte) : (s.raiseIllegal c op).decHcnt = s.decHcnt := rfl
@[simp] theorem State.raiseIllegal_decFlags (s : State) (c : IllCause) (op : Byte) : (s.raiseIllegal c op).decFlags = s.decFlags := rfl
@[simp] theorem State.raiseIllegal_decFid (s : State) (c : IllCause) (op : Byte) : (s.raiseIllegal c op).decFid = s.decFid := rfl
@[simp] theorem State.raiseIllegal_decLen (s : State) (c : IllCause) (op : Byte) : (s.raiseIllegal c op).decLen = s.decLen := rfl
@[simp] theorem State.raiseIllegal_decPayload (s : State) (c : IllCause) (op : Byte) : (s.raiseIllegal c op).decPayload = s.decPayload := rfl
@[simp] theorem State.raiseIllegal_decPcnt (s : State) (c : IllCause) (op : Byte) : (s.raiseIllegal c op).decPcnt = s.decPcnt := rfl
@[simp] theorem State.raiseIllegal_decCrcCalc (s : State) (c : IllCause) (op : Byte) : (s.raiseIllegal c op).decCrcCalc = s.decCrcCalc := rfl
@[simp] theorem State.raiseIllegal_decCrcRx (s : State) (c : IllCause) (op : Byte) : (s.raiseIllegal c op).decCrcRx = s.decCrcRx := rfl
@[simp] theorem State.raiseIllegal_decCrcOk (s : State) (c : IllCause) (op : Byte) : (s.raiseIllegal c op).decCrcOk = s.decCrcOk := rfl
@[simp] theorem State.raiseIllegal_decFidMatch (s : State) (c : IllCause) (op : Byte) : (s.raiseIllegal c op).decFidMatch = s.decFidMatch := rfl
@[simp] theorem State.raiseIllegal_decStatusOk (s : State) (c : IllCause) (op : Byte) : (s.raiseIllegal c op).decStatusOk = s.decStatusOk := rfl
@[simp] theorem State.raiseIllegal_decFailPhase (s : State) (c : IllCause) (op : Byte) : (s.raiseIllegal c op).decFailPhase = s.decFailPhase := rfl
@[simp] theorem State.raiseIllegal_rc (s : State) (c : IllCause) (op : Byte) : (s.raiseIllegal c op).rc = s.rc := rfl
@[simp] theorem State.raiseIllegal_rcLoading (s : State) (c : IllCause) (op : Byte) : (s.raiseIllegal c op).rcLoading = s.rcLoading := rfl
@[simp] theorem State.raiseIllegal_rcLcnt (s : State) (c : IllCause) (op : Byte) : (s.raiseIllegal c op).rcLcnt = s.rcLcnt := rfl
@[simp] theorem State.raiseIllegal_rcStage (s : State) (c : IllCause) (op : Byte) : (s.raiseIllegal c op).rcStage = s.rcStage := rfl
@[simp] theorem State.raiseIllegal_ill (s : State) (c : IllCause) (op : Byte) : (s.raiseIllegal c op).ill = true := rfl
@[simp] theorem State.raiseIllegal_illCause (s : State) (c : IllCause) (op : Byte) : (s.raiseIllegal c op).illCause = c := rfl
@[simp] theorem State.raiseIllegal_illOp (s : State) (c : IllCause) (op : Byte) : (s.raiseIllegal c op).illOp = op := rfl
@[simp] theorem State.raiseIllegal_tx (s : State) (c : IllCause) (op : Byte) : (s.raiseIllegal c op).tx = s.tx := rfl
@[simp] theorem State.raiseIllegal_rx (s : State) (c : IllCause) (op : Byte) : (s.raiseIllegal c op).rx = s.rx := rfl
@[simp] theorem State.raiseIllegal_timer (s : State) (c : IllCause) (op : Byte) : (s.raiseIllegal c op).timer = s.timer := rfl
@[simp] theorem State.raiseIllegal_events (s : State) (c : IllCause) (op : Byte) : (s.raiseIllegal c op).events = s.events := rfl

/-! ### Entering a decode state (R177, R241) -/

@[simp] theorem State.enterPhase_crcAcc (s : State) (d : DecState) : (s.enterPhase d).crcAcc = s.crcAcc := rfl
@[simp] theorem State.enterPhase_encBusy (s : State) (d : DecState) : (s.enterPhase d).encBusy = s.encBusy := rfl
@[simp] theorem State.enterPhase_encFid (s : State) (d : DecState) : (s.enterPhase d).encFid = s.encFid := rfl
@[simp] theorem State.enterPhase_encLen (s : State) (d : DecState) : (s.enterPhase d).encLen = s.encLen := rfl
@[simp] theorem State.enterPhase_encRemain (s : State) (d : DecState) : (s.enterPhase d).encRemain = s.encRemain := rfl
@[simp] theorem State.enterPhase_encCrc (s : State) (d : DecState) : (s.enterPhase d).encCrc = s.encCrc := rfl
@[simp] theorem State.enterPhase_decState (s : State) (d : DecState) : (s.enterPhase d).decState = d := rfl
@[simp] theorem State.enterPhase_decExpect (s : State) (d : DecState) : (s.enterPhase d).decExpect = s.decExpect := rfl
@[simp] theorem State.enterPhase_decTail (s : State) (d : DecState) : (s.enterPhase d).decTail = s.decTail := rfl
@[simp] theorem State.enterPhase_decHdr (s : State) (d : DecState) : (s.enterPhase d).decHdr = s.decHdr := rfl
@[simp] theorem State.enterPhase_decHcnt (s : State) (d : DecState) : (s.enterPhase d).decHcnt = s.decHcnt := rfl
@[simp] theorem State.enterPhase_decFlags (s : State) (d : DecState) : (s.enterPhase d).decFlags = s.decFlags := rfl
@[simp] theorem State.enterPhase_decFid (s : State) (d : DecState) : (s.enterPhase d).decFid = s.decFid := rfl
@[simp] theorem State.enterPhase_decLen (s : State) (d : DecState) : (s.enterPhase d).decLen = s.decLen := rfl
@[simp] theorem State.enterPhase_decPayload (s : State) (d : DecState) : (s.enterPhase d).decPayload = s.decPayload := rfl
@[simp] theorem State.enterPhase_decPcnt (s : State) (d : DecState) : (s.enterPhase d).decPcnt = s.decPcnt := rfl
@[simp] theorem State.enterPhase_decCrcCalc (s : State) (d : DecState) : (s.enterPhase d).decCrcCalc = s.decCrcCalc := rfl
@[simp] theorem State.enterPhase_decCrcRx (s : State) (d : DecState) : (s.enterPhase d).decCrcRx = s.decCrcRx := rfl
@[simp] theorem State.enterPhase_decCrcOk (s : State) (d : DecState) : (s.enterPhase d).decCrcOk = s.decCrcOk := rfl
@[simp] theorem State.enterPhase_decFidMatch (s : State) (d : DecState) : (s.enterPhase d).decFidMatch = s.decFidMatch := rfl
@[simp] theorem State.enterPhase_decStatusOk (s : State) (d : DecState) : (s.enterPhase d).decStatusOk = s.decStatusOk := rfl
@[simp] theorem State.enterPhase_decFailPhase (s : State) (d : DecState) : (s.enterPhase d).decFailPhase = s.decFailPhase := rfl
@[simp] theorem State.enterPhase_rc (s : State) (d : DecState) : (s.enterPhase d).rc = s.rc := rfl
@[simp] theorem State.enterPhase_rcLoading (s : State) (d : DecState) : (s.enterPhase d).rcLoading = s.rcLoading := rfl
@[simp] theorem State.enterPhase_rcLcnt (s : State) (d : DecState) : (s.enterPhase d).rcLcnt = s.rcLcnt := rfl
@[simp] theorem State.enterPhase_rcStage (s : State) (d : DecState) : (s.enterPhase d).rcStage = s.rcStage := rfl
@[simp] theorem State.enterPhase_ill (s : State) (d : DecState) : (s.enterPhase d).ill = s.ill := rfl
@[simp] theorem State.enterPhase_illCause (s : State) (d : DecState) : (s.enterPhase d).illCause = s.illCause := rfl
@[simp] theorem State.enterPhase_illOp (s : State) (d : DecState) : (s.enterPhase d).illOp = s.illOp := rfl
@[simp] theorem State.enterPhase_tx (s : State) (d : DecState) : (s.enterPhase d).tx = s.tx := rfl
@[simp] theorem State.enterPhase_rx (s : State) (d : DecState) : (s.enterPhase d).rx = s.rx := rfl
@[simp] theorem State.enterPhase_timer (s : State) (d : DecState) : (s.enterPhase d).timer = if d.active then some 0 else none := rfl
@[simp] theorem State.enterPhase_events (s : State) (d : DecState) : (s.enterPhase d).events = s.events := rfl

/-! ### The result flags (R36, R169) -/

@[simp] theorem State.setResultFlags_crcAcc (s : State) : s.setResultFlags.crcAcc = s.crcAcc := rfl
@[simp] theorem State.setResultFlags_encBusy (s : State) : s.setResultFlags.encBusy = s.encBusy := rfl
@[simp] theorem State.setResultFlags_encFid (s : State) : s.setResultFlags.encFid = s.encFid := rfl
@[simp] theorem State.setResultFlags_encLen (s : State) : s.setResultFlags.encLen = s.encLen := rfl
@[simp] theorem State.setResultFlags_encRemain (s : State) : s.setResultFlags.encRemain = s.encRemain := rfl
@[simp] theorem State.setResultFlags_encCrc (s : State) : s.setResultFlags.encCrc = s.encCrc := rfl
@[simp] theorem State.setResultFlags_decState (s : State) : s.setResultFlags.decState = s.decState := rfl
@[simp] theorem State.setResultFlags_decExpect (s : State) : s.setResultFlags.decExpect = s.decExpect := rfl
@[simp] theorem State.setResultFlags_decTail (s : State) : s.setResultFlags.decTail = s.decTail := rfl
@[simp] theorem State.setResultFlags_decHdr (s : State) : s.setResultFlags.decHdr = s.decHdr := rfl
@[simp] theorem State.setResultFlags_decHcnt (s : State) : s.setResultFlags.decHcnt = s.decHcnt := rfl
@[simp] theorem State.setResultFlags_decFlags (s : State) : s.setResultFlags.decFlags = s.decFlags := rfl
@[simp] theorem State.setResultFlags_decFid (s : State) : s.setResultFlags.decFid = s.decFid := rfl
@[simp] theorem State.setResultFlags_decLen (s : State) : s.setResultFlags.decLen = s.decLen := rfl
@[simp] theorem State.setResultFlags_decPayload (s : State) : s.setResultFlags.decPayload = s.decPayload := rfl
@[simp] theorem State.setResultFlags_decPcnt (s : State) : s.setResultFlags.decPcnt = s.decPcnt := rfl
@[simp] theorem State.setResultFlags_decCrcCalc (s : State) : s.setResultFlags.decCrcCalc = s.decCrcCalc := rfl
@[simp] theorem State.setResultFlags_decCrcRx (s : State) : s.setResultFlags.decCrcRx = s.decCrcRx := rfl
@[simp] theorem State.setResultFlags_decCrcOk (s : State) : s.setResultFlags.decCrcOk = (s.decCrcCalc == s.decCrcRx) := rfl
@[simp] theorem State.setResultFlags_decFidMatch (s : State) : s.setResultFlags.decFidMatch = (s.decFid == s.decExpect) := rfl
@[simp] theorem State.setResultFlags_decStatusOk (s : State) : s.setResultFlags.decStatusOk = ((s.decCrcCalc == s.decCrcRx) && (s.decFid == s.decExpect)) := rfl
@[simp] theorem State.setResultFlags_decFailPhase (s : State) : s.setResultFlags.decFailPhase = s.decFailPhase := rfl
@[simp] theorem State.setResultFlags_rc (s : State) : s.setResultFlags.rc = s.rc := rfl
@[simp] theorem State.setResultFlags_rcLoading (s : State) : s.setResultFlags.rcLoading = s.rcLoading := rfl
@[simp] theorem State.setResultFlags_rcLcnt (s : State) : s.setResultFlags.rcLcnt = s.rcLcnt := rfl
@[simp] theorem State.setResultFlags_rcStage (s : State) : s.setResultFlags.rcStage = s.rcStage := rfl
@[simp] theorem State.setResultFlags_ill (s : State) : s.setResultFlags.ill = s.ill := rfl
@[simp] theorem State.setResultFlags_illCause (s : State) : s.setResultFlags.illCause = s.illCause := rfl
@[simp] theorem State.setResultFlags_illOp (s : State) : s.setResultFlags.illOp = s.illOp := rfl
@[simp] theorem State.setResultFlags_tx (s : State) : s.setResultFlags.tx = s.tx := rfl
@[simp] theorem State.setResultFlags_rx (s : State) : s.setResultFlags.rx = s.rx := rfl
@[simp] theorem State.setResultFlags_timer (s : State) : s.setResultFlags.timer = s.timer := rfl
@[simp] theorem State.setResultFlags_events (s : State) : s.setResultFlags.events = s.events := rfl

/-! ### `RC[index] <- v` (R202) -/

@[simp] theorem State.rcWrite_crcAcc (s : State) (index : BitVec 4) (v : Half) : (s.rcWrite index v).crcAcc = s.crcAcc := rfl
@[simp] theorem State.rcWrite_encBusy (s : State) (index : BitVec 4) (v : Half) : (s.rcWrite index v).encBusy = s.encBusy := rfl
@[simp] theorem State.rcWrite_encFid (s : State) (index : BitVec 4) (v : Half) : (s.rcWrite index v).encFid = s.encFid := rfl
@[simp] theorem State.rcWrite_encLen (s : State) (index : BitVec 4) (v : Half) : (s.rcWrite index v).encLen = s.encLen := rfl
@[simp] theorem State.rcWrite_encRemain (s : State) (index : BitVec 4) (v : Half) : (s.rcWrite index v).encRemain = s.encRemain := rfl
@[simp] theorem State.rcWrite_encCrc (s : State) (index : BitVec 4) (v : Half) : (s.rcWrite index v).encCrc = s.encCrc := rfl
@[simp] theorem State.rcWrite_decState (s : State) (index : BitVec 4) (v : Half) : (s.rcWrite index v).decState = s.decState := rfl
@[simp] theorem State.rcWrite_decExpect (s : State) (index : BitVec 4) (v : Half) : (s.rcWrite index v).decExpect = s.decExpect := rfl
@[simp] theorem State.rcWrite_decTail (s : State) (index : BitVec 4) (v : Half) : (s.rcWrite index v).decTail = s.decTail := rfl
@[simp] theorem State.rcWrite_decHdr (s : State) (index : BitVec 4) (v : Half) : (s.rcWrite index v).decHdr = s.decHdr := rfl
@[simp] theorem State.rcWrite_decHcnt (s : State) (index : BitVec 4) (v : Half) : (s.rcWrite index v).decHcnt = s.decHcnt := rfl
@[simp] theorem State.rcWrite_decFlags (s : State) (index : BitVec 4) (v : Half) : (s.rcWrite index v).decFlags = s.decFlags := rfl
@[simp] theorem State.rcWrite_decFid (s : State) (index : BitVec 4) (v : Half) : (s.rcWrite index v).decFid = s.decFid := rfl
@[simp] theorem State.rcWrite_decLen (s : State) (index : BitVec 4) (v : Half) : (s.rcWrite index v).decLen = s.decLen := rfl
@[simp] theorem State.rcWrite_decPayload (s : State) (index : BitVec 4) (v : Half) : (s.rcWrite index v).decPayload = s.decPayload := rfl
@[simp] theorem State.rcWrite_decPcnt (s : State) (index : BitVec 4) (v : Half) : (s.rcWrite index v).decPcnt = s.decPcnt := rfl
@[simp] theorem State.rcWrite_decCrcCalc (s : State) (index : BitVec 4) (v : Half) : (s.rcWrite index v).decCrcCalc = s.decCrcCalc := rfl
@[simp] theorem State.rcWrite_decCrcRx (s : State) (index : BitVec 4) (v : Half) : (s.rcWrite index v).decCrcRx = s.decCrcRx := rfl
@[simp] theorem State.rcWrite_decCrcOk (s : State) (index : BitVec 4) (v : Half) : (s.rcWrite index v).decCrcOk = s.decCrcOk := rfl
@[simp] theorem State.rcWrite_decFidMatch (s : State) (index : BitVec 4) (v : Half) : (s.rcWrite index v).decFidMatch = s.decFidMatch := rfl
@[simp] theorem State.rcWrite_decStatusOk (s : State) (index : BitVec 4) (v : Half) : (s.rcWrite index v).decStatusOk = s.decStatusOk := rfl
@[simp] theorem State.rcWrite_decFailPhase (s : State) (index : BitVec 4) (v : Half) : (s.rcWrite index v).decFailPhase = s.decFailPhase := rfl
@[simp] theorem State.rcWrite_rc (s : State) (index : BitVec 4) (v : Half) : (s.rcWrite index v).rc = s.rc.set index.toNat v index.isLt := rfl
@[simp] theorem State.rcWrite_rcLoading (s : State) (index : BitVec 4) (v : Half) : (s.rcWrite index v).rcLoading = s.rcLoading := rfl
@[simp] theorem State.rcWrite_rcLcnt (s : State) (index : BitVec 4) (v : Half) : (s.rcWrite index v).rcLcnt = s.rcLcnt := rfl
@[simp] theorem State.rcWrite_rcStage (s : State) (index : BitVec 4) (v : Half) : (s.rcWrite index v).rcStage = s.rcStage := rfl
@[simp] theorem State.rcWrite_ill (s : State) (index : BitVec 4) (v : Half) : (s.rcWrite index v).ill = s.ill := rfl
@[simp] theorem State.rcWrite_illCause (s : State) (index : BitVec 4) (v : Half) : (s.rcWrite index v).illCause = s.illCause := rfl
@[simp] theorem State.rcWrite_illOp (s : State) (index : BitVec 4) (v : Half) : (s.rcWrite index v).illOp = s.illOp := rfl
@[simp] theorem State.rcWrite_tx (s : State) (index : BitVec 4) (v : Half) : (s.rcWrite index v).tx = s.tx := rfl
@[simp] theorem State.rcWrite_rx (s : State) (index : BitVec 4) (v : Half) : (s.rcWrite index v).rx = s.rx := rfl
@[simp] theorem State.rcWrite_timer (s : State) (index : BitVec 4) (v : Half) : (s.rcWrite index v).timer = s.timer := rfl
@[simp] theorem State.rcWrite_events (s : State) (index : BitVec 4) (v : Half) : (s.rcWrite index v).events = s.events := rfl

end Sys2Proof.Machine
end

