-- ==== Sys2Proof/Laws/Dec.lean ====
section
/-!
SUPPORT. What the decoder's events can do, said once: when Rx has a step, how bytes on RX are consumed one after
another, and the cases of an Rx step.
-/

namespace Sys2Proof.Machine

/-- A write inside a buffer of registers is a write. -/
theorem setIfInBounds_eq_set {α : Type} {n : Nat} (v : Vector α n) {i : Nat} (h : i < n) (a : α) :
    v.setIfInBounds i a = v.set i a h := by
  ext j hj
  simp [Vector.getElem_set, Vector.getElem_setIfInBounds]

/-- In an inactive state Rx has no step (R165). -/
theorem rxEvent_inactive {s : State} (h : s.decState.active = false) : rxEvent s = s := by
  simp [rxEvent, h]

/-- With no byte pending Rx has no step (R165). -/
theorem rxEvent_empty {s : State} (h : s.rx = []) : rxEvent s = s := by
  simp [rxEvent, h]

/-- An enabled Rx takes the first pending byte (R165). -/
theorem rxEvent_cons {s : State} {b : Byte} {rest : List Byte} (ha : s.decState.active = true) (h : s.rx = b :: rest) :
    rxEvent s = rxByte b { s with rx := rest } := by
  simp [rxEvent, ha, h]

@[simp] theorem rxBytes_nil (s : State) : rxBytes [] s = s := rfl

theorem rxBytes_cons (b : Byte) (bs : List Byte) (s : State) :
    rxBytes (b :: bs) s = rxBytes bs (rxEvent (s.arrive b)) := rfl

theorem rxBytes_append (as bs : List Byte) (s : State) : rxBytes (as ++ bs) s = rxBytes bs (rxBytes as s) := by
  simp [rxBytes]

/-- An inactive DEC leaves arriving bytes pending (R165). -/
theorem rxBytes_inactive {s : State} (h : s.decState.active = false) (bs : List Byte) :
    rxBytes bs s = { s with rx := s.rx ++ bs } := by
  induction bs generalizing s with
  | nil => simp
  | cons b rest ih =>
    rw [rxBytes_cons, rxEvent_inactive (by simpa using h), ih (by simpa using h)]
    simp [State.arrive]

/-- With nothing pending before it, an arriving byte is the one an active DEC consumes (R165). -/
theorem rxEvent_arrive {s : State} (ha : s.decState.active = true) (h : s.rx = []) (b : Byte) :
    rxEvent (s.arrive b) = rxByte b s := by
  rw [rxEvent_cons (b := b) (rest := []) (by simpa using ha) (by simp [h])]
  congr 1
  simp [State.arrive, ← h]

/-- One byte through an active DEC with nothing pending, then the others. -/
theorem rxBytes_cons_active {s : State} (ha : s.decState.active = true) (h : s.rx = []) (b : Byte) (bs : List Byte) :
    rxBytes (b :: bs) s = rxBytes bs (rxByte b s) := by
  rw [rxBytes_cons, rxEvent_arrive ha h]

/-- What one byte through the decoder can be: nothing in an inactive state, a scanned byte, the preamble's last byte, a
header byte, the header's last byte, a payload byte, the checksum, or nothing where no rule applies (R165 to R169). -/
theorem rxByte_cases (b : Byte) (s : State) :
    (s.decState.active = false ∧ rxByte b s = s) ∨
    (s.decState = .scanning ∧ lastN (lastN (s.decTail ++ [b]) tailCap) 3 ≠ responsePreamble ∧
      rxByte b s = { s with decTail := lastN (s.decTail ++ [b]) tailCap }) ∨
    (s.decState = .scanning ∧ lastN (lastN (s.decTail ++ [b]) tailCap) 3 = responsePreamble ∧
      rxByte b s = ({ s with decTail := lastN (s.decTail ++ [b]) tailCap } : State).preambleFound) ∨
    (s.decState = .headerRead ∧ s.decHcnt ≠ 7#4 ∧
      rxByte b s =
        { s with decHdr := s.decHdr.setIfInBounds s.decHcnt.toNat b, decHcnt := s.decHcnt + 1#4 }) ∨
    (s.decState = .headerRead ∧ s.decHcnt = 7#4 ∧
      rxByte b s = ({ s with decHdr := s.decHdr.set 7 b, decHcnt := 8#4 } : State).headerDone) ∨
    (s.decState = .headerComplete ∧ s.decPcnt < s.decLen ∧ rxByte b s = rxPayload b s) ∨
    (s.decState = .headerComplete ∧ s.decPcnt = s.decLen ∧ rxByte b s = rxChecksum b s) ∨
    (s.decState = .headerComplete ∧ s.decLen < s.decPcnt ∧ rxByte b s = s) := by
  cases hs : s.decState
  case scanning =>
    have hlen : ∀ l : List Byte, lastN l 3 = responsePreamble → 3 ≤ l.length := fun l h => by
      have := congrArg List.length h
      simp [lastN, responsePreamble] at this
      omega
    by_cases h : lastN (lastN (s.decTail ++ [b]) tailCap) 3 = responsePreamble
    · right; right; left
      exact ⟨rfl, h, by simp [rxByte, hs, rxScan, h, hlen _ h]⟩
    · right; left
      exact ⟨rfl, h, by simp [rxByte, hs, rxScan, h]⟩
  case headerRead =>
    by_cases h : s.decHcnt = 7#4
    · right; right; right; right; left
      exact ⟨rfl, h, by simp [rxByte, hs, rxHeader, h, setIfInBounds_eq_set]⟩
    · right; right; right; left
      refine ⟨rfl, h, ?_⟩
      have : ¬ s.decHcnt + 1#4 = 8#4 := by bv_omega
      simp [rxByte, hs, rxHeader, this]
  case headerComplete =>
    rcases Nat.lt_trichotomy s.decPcnt.toNat s.decLen.toNat with h | h | h
    · have h' : s.decPcnt < s.decLen := h
      simp [rxByte, hs, rxBody, h', DecState.active]
    · have h' : s.decPcnt = s.decLen := BitVec.eq_of_toNat_eq h
      simp [rxByte, hs, rxBody, h', DecState.active]
    · have h1 : ¬ s.decPcnt < s.decLen := by simp [BitVec.lt_def]; omega
      have h2 : ¬ s.decPcnt = s.decLen := by rintro h'; simp [h'] at h
      have h3 : s.decLen < s.decPcnt := h
      simp [rxByte, hs, rxBody, h1, h2, h3, DecState.active]
  all_goals
    left
    simp [rxByte, hs, DecState.active]

end Sys2Proof.Machine
end

