-- ==== Sys2Proof/Laws/Decode.lean ====
section
/-!
SUPPORT. The fields of a command word and of each operand format, and what a word that decodes runs as.
-/

namespace Sys2Proof

open Sys2Proof.Machine

@[simp] theorem opField_commandWord (op : Byte) (arg : BitVec 32) : opField (commandWord op arg) = op :=
  BitVec.extractLsb'_append_eq_left

@[simp] theorem argField_commandWord (op : Byte) (arg : BitVec 32) : argField (commandWord op arg) = arg :=
  BitVec.extractLsb'_append_eq_right

/-- A word is its OP and its ARG. -/
theorem commandWord_fields (w : CmdWord) : commandWord (opField w) (argField w) = w := append_extract 8 32 w rfl

/-- Format B on any ARG, written as its reserved part and its byte (R96). -/
theorem formatB_append (hi : BitVec 24) (b : Byte) (mk : Byte → Instr) :
    formatB (hi ++ b) mk = if hi = 0#24 then .ok (mk b) else .error .reservedBits := by
  rw [formatB, show (hi ++ b).extractLsb' 8 24 = hi from BitVec.extractLsb'_append_eq_left,
    show (hi ++ b).extractLsb' 0 8 = b from BitVec.extractLsb'_append_eq_right]

/-- Format FL on any ARG, written as its two fields (R96). -/
theorem formatFL_append (fid len : Half) (mk : Half → Half → Instr) :
    formatFL (len ++ fid) mk = .ok (mk fid len) := by
  rw [formatFL, show (len ++ fid).extractLsb' 0 16 = fid from BitVec.extractLsb'_append_eq_right,
    show (len ++ fid).extractLsb' 16 16 = len from BitVec.extractLsb'_append_eq_left]

/-- Formats F and V on any ARG, written as its reserved part and its field (R96). -/
theorem formatHalf_append (hi v : Half) (mk : Half → Instr) :
    formatHalf (hi ++ v) mk = if hi = 0#16 then .ok (mk v) else .error .reservedBits := by
  rw [formatHalf, show (hi ++ v).extractLsb' 16 16 = hi from BitVec.extractLsb'_append_eq_left,
    show (hi ++ v).extractLsb' 0 16 = v from BitVec.extractLsb'_append_eq_right]

/-- Format IV on any ARG, written as its reserved part and its two fields (R96). -/
theorem formatIV_append (hi : BitVec 12) (index : BitVec 4) (value : Half) (mk : BitVec 4 → Half → Instr) :
    formatIV (hi ++ index ++ value) mk = if hi = 0#12 then .ok (mk index value) else .error .reservedBits := by
  have h1 : (hi ++ index ++ value).extractLsb' 20 12 = hi := by
    rw [extract_append_high _ _ _ _ (by omega), extract_append_high _ _ _ _ (by omega)]
    exact BitVec.extractLsb'_eq_self
  have h2 : (hi ++ index ++ value).extractLsb' 16 4 = index := by
    rw [extract_append_high _ _ _ _ (by omega), extract_append_low _ _ _ _ (by omega)]
    exact BitVec.extractLsb'_eq_self
  have h3 : (hi ++ index ++ value).extractLsb' 0 16 = value := BitVec.extractLsb'_append_eq_right
  rw [formatIV, h1, h2, h3]

/-! ### The format each OP selects (R97) -/

theorem decodeCommand_nop (arg : BitVec 32) :
    decodeCommand (commandWord Opcode.nop arg) = formatN arg .nop := by
  simp [decodeCommand, Opcode.nop]

theorem decodeCommand_crcClr (arg : BitVec 32) :
    decodeCommand (commandWord Opcode.crcClr arg) = formatN arg .crcClr := by
  simp [decodeCommand, Opcode.nop, Opcode.crcClr]

theorem decodeCommand_crcByte (arg : BitVec 32) :
    decodeCommand (commandWord Opcode.crcByte arg) = formatB arg .crcByte := by
  simp [decodeCommand, Opcode.nop, Opcode.crcClr, Opcode.crcByte]

theorem decodeCommand_encStart (arg : BitVec 32) :
    decodeCommand (commandWord Opcode.encStart arg) = formatFL arg .encStart := by
  simp [decodeCommand, Opcode.nop, Opcode.crcClr, Opcode.crcByte, Opcode.encStart]

theorem decodeCommand_encData (arg : BitVec 32) :
    decodeCommand (commandWord Opcode.encData arg) = formatB arg .encData := by
  simp [decodeCommand, Opcode.nop, Opcode.crcClr, Opcode.crcByte, Opcode.encStart, Opcode.encData]

theorem decodeCommand_encRc (arg : BitVec 32) :
    decodeCommand (commandWord Opcode.encRc arg) = formatN arg .encRc := by
  simp [decodeCommand, Opcode.nop, Opcode.crcClr, Opcode.crcByte, Opcode.encStart, Opcode.encData, Opcode.encRc]

theorem decodeCommand_decStart (arg : BitVec 32) :
    decodeCommand (commandWord Opcode.decStart arg) = formatHalf arg .decStart := by
  simp [decodeCommand, Opcode.nop, Opcode.crcClr, Opcode.crcByte, Opcode.encStart, Opcode.encData, Opcode.encRc, Opcode.decStart]

theorem decodeCommand_rcSet (arg : BitVec 32) :
    decodeCommand (commandWord Opcode.rcSet arg) = formatIV arg .rcSet := by
  simp [decodeCommand, Opcode.nop, Opcode.crcClr, Opcode.crcByte, Opcode.encStart, Opcode.encData, Opcode.encRc, Opcode.decStart, Opcode.rcSet]

theorem decodeCommand_rcLoadBegin (arg : BitVec 32) :
    decodeCommand (commandWord Opcode.rcLoadBegin arg) = formatN arg .rcLoadBegin := by
  simp [decodeCommand, Opcode.nop, Opcode.crcClr, Opcode.crcByte, Opcode.encStart, Opcode.encData, Opcode.encRc, Opcode.decStart, Opcode.rcSet, Opcode.rcLoadBegin]

theorem decodeCommand_rcLoadVal (arg : BitVec 32) :
    decodeCommand (commandWord Opcode.rcLoadVal arg) = formatHalf arg .rcLoadVal := by
  simp [decodeCommand, Opcode.nop, Opcode.crcClr, Opcode.crcByte, Opcode.encStart, Opcode.encData, Opcode.encRc, Opcode.decStart, Opcode.rcSet, Opcode.rcLoadBegin, Opcode.rcLoadVal]

theorem decodeCommand_rcLoadEnd (arg : BitVec 32) :
    decodeCommand (commandWord Opcode.rcLoadEnd arg) = formatN arg .rcLoadEnd := by
  simp [decodeCommand, Opcode.nop, Opcode.crcClr, Opcode.crcByte, Opcode.encStart, Opcode.encData, Opcode.encRc, Opcode.decStart, Opcode.rcSet, Opcode.rcLoadBegin, Opcode.rcLoadVal, Opcode.rcLoadEnd]

/-! ### What a format that answers says about ARG (R96) -/

theorem formatN_ok {arg : BitVec 32} {i j : Instr} (h : formatN arg i = .ok j) : j = i ∧ arg = 0#32 := by
  unfold formatN at h
  split at h
  · injection h with h
    exact ⟨h.symm, ‹_›⟩
  · cases h

theorem formatB_ok {arg : BitVec 32} {mk : Byte → Instr} {j : Instr} (h : formatB arg mk = .ok j) :
    ∃ b, j = mk b ∧ arg = argB b := by
  unfold formatB at h
  split at h
  · rename_i h1
    injection h with h
    exact ⟨_, h.symm, by rw [argB, ← h1]; exact (append_extract 24 8 arg rfl).symm⟩
  · cases h

theorem formatFL_ok {arg : BitVec 32} {mk : Half → Half → Instr} {j : Instr} (h : formatFL arg mk = .ok j) :
    ∃ fid len, j = mk fid len ∧ arg = argFL fid len := by
  injection h with h
  exact ⟨_, _, h.symm, (append_extract 16 16 arg rfl).symm⟩

theorem formatHalf_ok {arg : BitVec 32} {mk : Half → Instr} {j : Instr} (h : formatHalf arg mk = .ok j) :
    ∃ v, j = mk v ∧ arg = argHalf v := by
  unfold formatHalf at h
  split at h
  · rename_i h1
    injection h with h
    exact ⟨_, h.symm, by rw [argHalf, ← h1]; exact (append_extract 16 16 arg rfl).symm⟩
  · cases h

theorem formatIV_ok {arg : BitVec 32} {mk : BitVec 4 → Half → Instr} {j : Instr} (h : formatIV arg mk = .ok j) :
    ∃ index value, j = mk index value ∧ arg = argIV index value := by
  unfold formatIV at h
  split at h
  · rename_i h1
    injection h with h
    have hi : arg.extractLsb' 16 16 = arg.extractLsb' 20 12 ++ arg.extractLsb' 16 4 := by
      apply BitVec.eq_of_getLsbD_eq
      intro k hk
      simp only [BitVec.getLsbD_append, BitVec.getLsbD_extractLsb', hk, decide_true, Bool.true_and]
      split
      · simp_all
      · have : k - 4 < 12 := by omega
        simp only [this, decide_true, Bool.true_and]
        congr 1
        omega
    refine ⟨_, _, h.symm, ?_⟩
    rw [argIV, ← h1, ← hi]
    exact (append_extract 16 16 arg rfl).symm
  · cases h

end Sys2Proof

namespace Sys2Proof.Machine

theorem runCommand_ok {w : CmdWord} {i : Instr} (h : decodeCommand w = .ok i) (s : State) :
    runCommand w s = exec i s := by
  simp [runCommand, h]

theorem runCommand_error {w : CmdWord} {r : CmdReject} (h : decodeCommand w = .error r) (s : State) :
    runCommand w s = .next (s.raiseIllegal (rejectCause r) (opField w)) := by
  simp [runCommand, h]

/-! ### What each command word runs as, over every ARG: its instruction, or a ReservedBits rejection (R98) -/

theorem runCommand_nop (arg : BitVec 32) (s : State) :
    runCommand (commandWord Opcode.nop arg) s =
      if arg = 0#32 then exec .nop s else .next (s.raiseIllegal .reservedBits Opcode.nop) := by
  by_cases h : arg = 0#32 <;> simp [runCommand, decodeCommand_nop, formatN, h, rejectCause]

theorem runCommand_crcClr (arg : BitVec 32) (s : State) :
    runCommand (commandWord Opcode.crcClr arg) s =
      if arg = 0#32 then exec .crcClr s else .next (s.raiseIllegal .reservedBits Opcode.crcClr) := by
  by_cases h : arg = 0#32 <;> simp [runCommand, decodeCommand_crcClr, formatN, h, rejectCause]

theorem runCommand_encRc (arg : BitVec 32) (s : State) :
    runCommand (commandWord Opcode.encRc arg) s =
      if arg = 0#32 then exec .encRc s else .next (s.raiseIllegal .reservedBits Opcode.encRc) := by
  by_cases h : arg = 0#32 <;> simp [runCommand, decodeCommand_encRc, formatN, h, rejectCause]

theorem runCommand_rcLoadBegin (arg : BitVec 32) (s : State) :
    runCommand (commandWord Opcode.rcLoadBegin arg) s =
      if arg = 0#32 then exec .rcLoadBegin s else .next (s.raiseIllegal .reservedBits Opcode.rcLoadBegin) := by
  by_cases h : arg = 0#32 <;> simp [runCommand, decodeCommand_rcLoadBegin, formatN, h, rejectCause]

theorem runCommand_rcLoadEnd (arg : BitVec 32) (s : State) :
    runCommand (commandWord Opcode.rcLoadEnd arg) s =
      if arg = 0#32 then exec .rcLoadEnd s else .next (s.raiseIllegal .reservedBits Opcode.rcLoadEnd) := by
  by_cases h : arg = 0#32 <;> simp [runCommand, decodeCommand_rcLoadEnd, formatN, h, rejectCause]

theorem runCommand_crcByte (hi : BitVec 24) (b : Byte) (s : State) :
    runCommand (commandWord Opcode.crcByte (hi ++ b)) s =
      if hi = 0#24 then exec (.crcByte b) s else .next (s.raiseIllegal .reservedBits Opcode.crcByte) := by
  by_cases h : hi = 0#24 <;> simp [runCommand, decodeCommand_crcByte, formatB_append, h, rejectCause]

theorem runCommand_encData (hi : BitVec 24) (b : Byte) (s : State) :
    runCommand (commandWord Opcode.encData (hi ++ b)) s =
      if hi = 0#24 then exec (.encData b) s else .next (s.raiseIllegal .reservedBits Opcode.encData) := by
  by_cases h : hi = 0#24 <;> simp [runCommand, decodeCommand_encData, formatB_append, h, rejectCause]

theorem runCommand_decStart (hi v : Half) (s : State) :
    runCommand (commandWord Opcode.decStart (hi ++ v)) s =
      if hi = 0#16 then exec (.decStart v) s else .next (s.raiseIllegal .reservedBits Opcode.decStart) := by
  by_cases h : hi = 0#16 <;> simp [runCommand, decodeCommand_decStart, formatHalf_append, h, rejectCause]

theorem runCommand_rcLoadVal (hi v : Half) (s : State) :
    runCommand (commandWord Opcode.rcLoadVal (hi ++ v)) s =
      if hi = 0#16 then exec (.rcLoadVal v) s else .next (s.raiseIllegal .reservedBits Opcode.rcLoadVal) := by
  by_cases h : hi = 0#16 <;> simp [runCommand, decodeCommand_rcLoadVal, formatHalf_append, h, rejectCause]

theorem runCommand_encStart (fid len : Half) (s : State) :
    runCommand (commandWord Opcode.encStart (len ++ fid)) s = exec (.encStart fid len) s := by
  simp only [runCommand, decodeCommand_encStart, formatFL_append]

theorem runCommand_rcSet (hi : BitVec 12) (index : BitVec 4) (value : Half) (s : State) :
    runCommand (commandWord Opcode.rcSet (hi ++ index ++ value)) s =
      if hi = 0#12 then exec (.rcSet index value) s else .next (s.raiseIllegal .reservedBits Opcode.rcSet) := by
  by_cases h : hi = 0#12 <;> simp [runCommand, decodeCommand_rcSet, formatIV_append, h, rejectCause]

theorem handleAll_cons_next {e : Event} {s t : State} (h : handle e s = .next t) (es : List Event) :
    handleAll (e :: es) s = handleAll es t := by
  simp [handleAll, h]

/-- Handling one event more at the end. -/
theorem handleAll_append_next {es : List Event} {s t : State} (h : handleAll es s = .next t) (fs : List Event) :
    handleAll (es ++ fs) s = handleAll fs t := by
  induction es generalizing s with
  | nil => simp_all [handleAll]
  | cons e rest ih =>
    rw [List.cons_append, handleAll]
    rw [handleAll] at h
    split at h <;> simp_all

end Sys2Proof.Machine
end

