-- ==== Sys2Proof/Laws/Exec.lean ====
section
/-!
SUPPORT. Each command's meaning, one lemma for each way it can go: its own effect, or its rejection (R235). The
conditions do not overlap and cover every state.
-/

namespace Sys2Proof.Machine

variable {s : State}

/-! ### ENC (R140 to R142) -/

theorem execEncStart_busy (fid len : Half) (h : s.encBusy = true) :
    execEncStart fid len s = .next (s.raiseIllegal .encoderBusy Opcode.encStart) := by
  simp [execEncStart, h]

theorem execEncStart_whole (fid : Half) (h : s.encBusy = false) :
    execEncStart fid 0#16 s =
      .next { s with
        tx := s.tx ++ (requestPreamble ++ headerRegion fid 0#16 ++ [crc8 (headerRegion fid 0#16)])
        encFid := fid, encLen := 0#16, encRemain := 0#16, encCrc := crc8 (headerRegion fid 0#16), encBusy := false } := by
  simp [execEncStart, h, State.emit]

theorem execEncStart_open (fid : Half) {len : Half} (h : s.encBusy = false) (hl : len ≠ 0#16) :
    execEncStart fid len s =
      .next { s with
        tx := s.tx ++ (requestPreamble ++ headerRegion fid len)
        encFid := fid, encLen := len, encRemain := len, encCrc := crc8 (headerRegion fid len), encBusy := true } := by
  simp [execEncStart, h, hl, State.emit]

theorem execEncData_idle (b : Byte) (h : s.encBusy = false) :
    execEncData b s = .next (s.raiseIllegal .encoderIdle Opcode.encData) := by
  simp [execEncData, h]

theorem execEncData_last (b : Byte) (h : s.encBusy = true) (hr : s.encRemain = 1#16) :
    execEncData b s =
      .next { s with
        tx := s.tx ++ [b, crc8Update s.encCrc b]
        encCrc := crc8Update s.encCrc b, encRemain := 0#16, encBusy := false } := by
  simp [execEncData, h, hr, State.emit]

theorem execEncData_more (b : Byte) (h : s.encBusy = true) (hr : s.encRemain ≠ 1#16) :
    execEncData b s =
      .next { s with
        tx := s.tx ++ [b], encCrc := crc8Update s.encCrc b, encRemain := s.encRemain - 1#16, encBusy := true } := by
  have : s.encRemain - 1#16 ≠ 0#16 := by bv_omega
  rw [execEncData, if_pos h]
  simp only [if_neg this, State.emit, h]

theorem execEncRc_busy (h : s.encBusy = true) :
    execEncRc s = .next (s.raiseIllegal .encoderBusy Opcode.encRc) := by
  simp [execEncRc, h]

theorem execEncRc_idle (h : s.encBusy = false) :
    execEncRc s =
      .next { s with
        tx := s.tx ++ (requestPreamble ++ headerRegion fidSetRawRcId 32#16 ++ s.rcSerialize ++
          [crc8 (headerRegion fidSetRawRcId 32#16 ++ s.rcSerialize)])
        encFid := fidSetRawRcId, encLen := 32#16, encRemain := 0#16
        encCrc := crc8 (headerRegion fidSetRawRcId 32#16 ++ s.rcSerialize) } := by
  simp [execEncRc, h, State.emit]

/-! ### DEC (R164) -/

theorem execDecStart_active (fid : Half) (h : s.decState.active = true) :
    execDecStart fid s = .next (s.raiseIllegal .decoderBusy Opcode.decStart) := by
  simp [execDecStart, h]

theorem execDecStart_inactive (fid : Half) (h : s.decState.active = false) :
    execDecStart fid s =
      .next { s with
        decExpect := fid, decTail := [], decHdr := Vector.replicate 8 0x00#8, decHcnt := 0#4, decFlags := 0x00#8
        decFid := 0#16, decLen := 0#16, decPcnt := 0#16, decCrcCalc := 0x00#8, decCrcRx := 0x00#8
        decCrcOk := false, decFidMatch := false, decStatusOk := false, decFailPhase := .none
        decState := .scanning, timer := some 0 } := by
  rw [execDecStart, if_neg (by simp [h])]
  rfl

/-! ### RCF (R203 to R205) -/

theorem execRcLoadBegin_open (h : s.rcLoading = true) :
    execRcLoadBegin s = .next (s.raiseIllegal .loadState Opcode.rcLoadBegin) := by
  simp [execRcLoadBegin, h]

theorem execRcLoadBegin_closed (h : s.rcLoading = false) :
    execRcLoadBegin s = .next { s with rcLoading := true, rcLcnt := 0#5 } := by
  simp [execRcLoadBegin, h]

theorem execRcLoadVal_closed (value : Half) (h : s.rcLoading = false) :
    execRcLoadVal value s = .next (s.raiseIllegal .loadState Opcode.rcLoadVal) := by
  simp [execRcLoadVal, h]

theorem execRcLoadVal_stage (value : Half) (h : s.rcLoading = true) (hl : s.rcLcnt.toNat < 16) :
    execRcLoadVal value s =
      .next { s with
        rcStage := s.rcStage.set s.rcLcnt.toNat value hl, rcLcnt := BitVec.ofNat 5 (s.rcLcnt.toNat + 1) } := by
  have h1 : s.rcLcnt < 16#5 := hl
  have h2 : s.rcLcnt + 1#5 = BitVec.ofNat 5 (s.rcLcnt.toNat + 1) := by bv_omega
  have h3 : s.rcStage.setIfInBounds s.rcLcnt.toNat value = s.rcStage.set s.rcLcnt.toNat value hl := by
    ext j hj
    simp [Vector.getElem_set, Vector.getElem_setIfInBounds]
  rw [execRcLoadVal, if_pos h, if_pos h1, h2, h3]

theorem execRcLoadVal_full (value : Half) (h : s.rcLoading = true) (hl : 16 ≤ s.rcLcnt.toNat) :
    execRcLoadVal value s = .next s := by
  have h1 : ¬ s.rcLcnt < 16#5 := by simp [BitVec.lt_def]; omega
  rw [execRcLoadVal, if_pos h, if_neg h1]

theorem execRcLoadEnd_closed (h : s.rcLoading = false) :
    execRcLoadEnd s = .next (s.raiseIllegal .loadState Opcode.rcLoadEnd) := by
  simp [execRcLoadEnd, h]

theorem execRcLoadEnd_open (h : s.rcLoading = true) :
    execRcLoadEnd s = .next { s with rc := s.committedRc, rcLoading := false, rcLcnt := 0#5 } := by
  simp [execRcLoadEnd, h]

/-- The vector a load commits, channel by channel (R205). -/
theorem committedRc_getElem (s : State) (i : Nat) (hi : i < 16) :
    s.committedRc[i] = if i < s.rcLcnt.toNat then s.rcStage[i] else rcCentre := by
  simp [State.committedRc]

end Sys2Proof.Machine
end

