-- ==== Sys2Proof/Laws/Wire.lean ====
section
/-!
SUPPORT. Bytes on the wire run the same way whether they are a row of the opcode table or not (log 3).
-/

namespace Sys2Proof.Machine

/-- A frame row's meaning is its own bytes through the decoder. -/
theorem exec_of_decodeWire {bs : List Byte} {i : Instr} (h : decodeWire bs = some i) (s : State) :
    exec i s = .next (rxBytes bs s) := by
  match bs with
  | [] => simp [decodeWire] at h
  | [_] => simp [decodeWire] at h
  | [lo, hi] =>
    rw [← le16_fromLe16 lo hi]
    simp only [decodeWire, decodeFid] at h
    repeat' split at h
    all_goals first
      | (cases h; rename_i hv; rw [hv]; rfl)
      | cases h
  | [a, b, c] =>
    simp only [decodeWire, decodePreamble] at h
    repeat' split at h
    all_goals first
      | (cases h; rename_i hv; rw [hv]; rfl)
      | cases h
  | _ :: _ :: _ :: _ :: _ => simp [decodeWire] at h

/-- Bytes on the wire are bytes through the decoder. -/
theorem runWire_eq (bs : List Byte) (s : State) : runWire bs s = .next (rxBytes bs s) := by
  rw [runWire]
  split
  · exact exec_of_decodeWire (by assumption) s
  · rfl

end Sys2Proof.Machine
end

