-- ==== Sys2Proof/Laws/Event.lean ====
section
/-!
SUPPORT. What one event can do, said once: `CmdEffect` lists every next state of a command word, and each other event
is the state function its rule gives. Invariants and frames are case analyses over these.
-/

namespace Sys2Proof.Machine

/-- Every next state a command word with OP `op` can lead to from `s` (R98, R122 to R210). -/
inductive CmdEffect (s : State) (op : Byte) : State → Prop where
  | rejected (c : IllCause) (hc : c ≠ .none) : CmdEffect s op (s.raiseIllegal c op)
  | nop (h : op = Opcode.nop) : CmdEffect s op s
  | crcClr (h : op = Opcode.crcClr) : CmdEffect s op { s with crcAcc := 0x00#8 }
  | crcByte (b : Byte) (h : op = Opcode.crcByte) : CmdEffect s op { s with crcAcc := crc8Update s.crcAcc b }
  | encWhole (fid : Half) (h : op = Opcode.encStart) (hb : s.encBusy = false) :
    CmdEffect s op { s with
      tx := s.tx ++ (requestPreamble ++ headerRegion fid 0#16 ++ [crc8 (headerRegion fid 0#16)])
      encFid := fid, encLen := 0#16, encRemain := 0#16, encCrc := crc8 (headerRegion fid 0#16), encBusy := false }
  | encOpen (fid len : Half) (h : op = Opcode.encStart) (hb : s.encBusy = false) (hl : len ≠ 0#16) :
    CmdEffect s op { s with
      tx := s.tx ++ (requestPreamble ++ headerRegion fid len)
      encFid := fid, encLen := len, encRemain := len, encCrc := crc8 (headerRegion fid len), encBusy := true }
  | encLast (b : Byte) (h : op = Opcode.encData) (hb : s.encBusy = true) (hr : s.encRemain = 1#16) :
    CmdEffect s op { s with
      tx := s.tx ++ [b, crc8Update s.encCrc b]
      encCrc := crc8Update s.encCrc b, encRemain := 0#16, encBusy := false }
  | encMore (b : Byte) (h : op = Opcode.encData) (hb : s.encBusy = true) (hr : s.encRemain ≠ 1#16) :
    CmdEffect s op { s with
      tx := s.tx ++ [b], encCrc := crc8Update s.encCrc b, encRemain := s.encRemain - 1#16, encBusy := true }
  | encRc (h : op = Opcode.encRc) (hb : s.encBusy = false) :
    CmdEffect s op { s with
      tx := s.tx ++ (requestPreamble ++ headerRegion fidSetRawRcId 32#16 ++ s.rcSerialize ++
        [crc8 (headerRegion fidSetRawRcId 32#16 ++ s.rcSerialize)])
      encFid := fidSetRawRcId, encLen := 32#16, encRemain := 0#16
      encCrc := crc8 (headerRegion fidSetRawRcId 32#16 ++ s.rcSerialize) }
  | decStart (fid : Half) (h : op = Opcode.decStart) (ha : s.decState.active = false) :
    CmdEffect s op { s with
      decExpect := fid, decTail := [], decHdr := Vector.replicate 8 0x00#8, decHcnt := 0#4, decFlags := 0x00#8
      decFid := 0#16, decLen := 0#16, decPcnt := 0#16, decCrcCalc := 0x00#8, decCrcRx := 0x00#8
      decCrcOk := false, decFidMatch := false, decStatusOk := false, decFailPhase := .none
      decState := .scanning, timer := some 0 }
  | rcSet (index : BitVec 4) (value : Half) (h : op = Opcode.rcSet) : CmdEffect s op (s.rcWrite index value)
  | rcLoadBegin (h : op = Opcode.rcLoadBegin) (hl : s.rcLoading = false) :
    CmdEffect s op { s with rcLoading := true, rcLcnt := 0#5 }
  | rcLoadStage (value : Half) (h : op = Opcode.rcLoadVal) (hl : s.rcLoading = true) (hc : s.rcLcnt.toNat < 16) :
    CmdEffect s op { s with
      rcStage := s.rcStage.set s.rcLcnt.toNat value hc, rcLcnt := BitVec.ofNat 5 (s.rcLcnt.toNat + 1) }
  | rcLoadDrop (h : op = Opcode.rcLoadVal) (hl : s.rcLoading = true) (hc : 16 ≤ s.rcLcnt.toNat) : CmdEffect s op s
  | rcLoadEnd (h : op = Opcode.rcLoadEnd) (hl : s.rcLoading = true) :
    CmdEffect s op { s with rc := s.committedRc, rcLoading := false, rcLcnt := 0#5 }

/-- Every command word has a next state, and it is one of these (R234, R236: the block never stops). -/
theorem runCommand_effect (w : CmdWord) (s : State) : ∃ t, runCommand w s = .next t ∧ CmdEffect s (opField w) t := by
  cases hd : decodeCommand w with
  | error r => exact ⟨_, runCommand_error hd s, .rejected _ (by cases r <;> simp [rejectCause])⟩
  | ok i =>
    rw [runCommand_ok hd]
    unfold decodeCommand at hd
    simp only [] at hd
    split at hd
    · obtain ⟨rfl, -⟩ := formatN_ok hd
      exact ⟨_, rfl, .nop (by assumption)⟩
    split at hd
    · obtain ⟨rfl, -⟩ := formatN_ok hd
      exact ⟨_, rfl, .crcClr (by assumption)⟩
    split at hd
    · obtain ⟨b, rfl, -⟩ := formatB_ok hd
      exact ⟨_, rfl, .crcByte b (by assumption)⟩
    split at hd
    · rename_i hop
      obtain ⟨fid, len, rfl, -⟩ := formatFL_ok hd
      cases hb : s.encBusy
      · by_cases hl : len = 0#16
        · subst hl
          exact ⟨_, execEncStart_whole fid hb, .encWhole fid hop hb⟩
        · exact ⟨_, execEncStart_open fid hb hl, .encOpen fid len hop hb hl⟩
      · exact ⟨_, execEncStart_busy fid len hb, by rw [hop]; exact .rejected _ (by simp)⟩
    split at hd
    · rename_i hop
      obtain ⟨b, rfl, -⟩ := formatB_ok hd
      cases hb : s.encBusy
      · exact ⟨_, execEncData_idle b hb, by rw [hop]; exact .rejected _ (by simp)⟩
      · by_cases hr : s.encRemain = 1#16
        · exact ⟨_, execEncData_last b hb hr, .encLast b hop hb hr⟩
        · exact ⟨_, execEncData_more b hb hr, .encMore b hop hb hr⟩
    split at hd
    · rename_i hop
      obtain ⟨rfl, -⟩ := formatN_ok hd
      cases hb : s.encBusy
      · exact ⟨_, execEncRc_idle hb, .encRc hop hb⟩
      · exact ⟨_, execEncRc_busy hb, by rw [hop]; exact .rejected _ (by simp)⟩
    split at hd
    · rename_i hop
      obtain ⟨fid, rfl, -⟩ := formatHalf_ok hd
      cases ha : s.decState.active
      · exact ⟨_, execDecStart_inactive fid ha, .decStart fid hop ha⟩
      · exact ⟨_, execDecStart_active fid ha, by rw [hop]; exact .rejected _ (by simp)⟩
    split at hd
    · obtain ⟨index, value, rfl, -⟩ := formatIV_ok hd
      exact ⟨_, rfl, .rcSet index value (by assumption)⟩
    split at hd
    · rename_i hop
      obtain ⟨rfl, -⟩ := formatN_ok hd
      cases hl : s.rcLoading
      · exact ⟨_, execRcLoadBegin_closed hl, .rcLoadBegin hop hl⟩
      · exact ⟨_, execRcLoadBegin_open hl, by rw [hop]; exact .rejected _ (by simp)⟩
    split at hd
    · rename_i hop
      obtain ⟨value, rfl, -⟩ := formatHalf_ok hd
      cases hl : s.rcLoading
      · exact ⟨_, execRcLoadVal_closed value hl, by rw [hop]; exact .rejected _ (by simp)⟩
      · by_cases hc : s.rcLcnt.toNat < 16
        · exact ⟨_, execRcLoadVal_stage value hl hc, .rcLoadStage value hop hl hc⟩
        · exact ⟨_, execRcLoadVal_full value hl (by omega), .rcLoadDrop hop hl (by omega)⟩
    split at hd
    · rename_i hop
      obtain ⟨rfl, -⟩ := formatN_ok hd
      cases hl : s.rcLoading
      · exact ⟨_, execRcLoadEnd_closed hl, by rw [hop]; exact .rejected _ (by simp)⟩
      · exact ⟨_, execRcLoadEnd_open hl, .rcLoadEnd hop hl⟩
    cases hd

/-- What a command word's next state can be. -/
theorem cmdEffect_of_handle {w : CmdWord} {s t : State} (h : handle (.cmd w) s = .next t) :
    CmdEffect s (opField w) t := by
  obtain ⟨u, hu, he⟩ := runCommand_effect w s
  rw [handle, hu] at h
  injection h with h
  exact h ▸ he

/-- Every event has a next state (R236). -/
theorem handle_next (e : Event) (s : State) : ∃ t, handle e s = .next t := by
  cases e with
  | cmd w => exact (runCommand_effect w s).imp fun _ h => h.1
  | wire bs => exact ⟨_, runWire_eq bs s⟩
  | arrive b => exact ⟨_, rfl⟩
  | rx => exact ⟨_, rfl⟩
  | timeout => exact ⟨_, rfl⟩
  | elapse d => exact ⟨_, rfl⟩
  | reset => exact ⟨_, rfl⟩

end Sys2Proof.Machine
end

