-- ==== Sys2Proof/Laws/PerInstr.lean ====
section
/-!
SUPPORT. Every instruction against its row of spec/opcode_table.json: the encoder's word, numbered as the table numbers
it, has the width and the fixed bits of its row.
-/

namespace Sys2Proof.Laws.TableRow

open Sys2Proof Sys2Proof.Machine

/-- The width, mask and match of an instruction's row, copied from spec/opcode_table.json. -/
def row (i : Instr) : Nat × Nat × Nat :=
  match i with
  | .nop => (40, 0xFFFFFFFFFF, 0x0000000000)
  | .crcClr => (40, 0xFFFFFFFFFF, 0x0100000000)
  | .crcByte _ => (40, 0xFFFFFFFF00, 0x0200000000)
  | .encStart _ _ => (40, 0xFF00000000, 0x1000000000)
  | .encData _ => (40, 0xFFFFFFFF00, 0x1100000000)
  | .encRc => (40, 0xFFFFFFFFFF, 0x1200000000)
  | .decStart _ => (40, 0xFFFFFF0000, 0x2000000000)
  | .rcSet _ _ => (40, 0xFFFFF00000, 0x3000000000)
  | .rcLoadBegin => (40, 0xFFFFFFFFFF, 0x3100000000)
  | .rcLoadVal _ => (40, 0xFFFFFF0000, 0x3200000000)
  | .rcLoadEnd => (40, 0xFFFFFFFFFF, 0x3300000000)
  | .fidStatus => (16, 0xFFFF, 0x0065)
  | .fidRawImu => (16, 0xFFFF, 0x0066)
  | .fidRc => (16, 0xFFFF, 0x0069)
  | .fidGps => (16, 0xFFFF, 0x006B)
  | .fidAltitude => (16, 0xFFFF, 0x006D)
  | .fidSetRawRc => (16, 0xFFFF, 0x00C8)
  | .preambleRequest => (24, 0xFFFFFF, 0x24583C)
  | .preambleResponse => (24, 0xFFFFFF, 0x24583E)

/-- An encoding as the number the table writes: a command word, a function id, or a preamble in stream order (log 12). -/
def number (e : Encoding) : Nat × Nat :=
  match e with
  | .command w => (40, w.toNat)
  | .wire [lo, hi] => (16, (fromLe16 lo hi).toNat)
  | .wire [a, b, c] => (24, (a ++ b ++ c).toNat)
  | .wire _ => (0, 0)

/-- The encoder's word has the row's width and fixed bits. -/
def Statement (i : Instr) : Prop :=
  (number (encode i)).1 = (row i).1 ∧ (number (encode i)).2 &&& (row i).2.1 = (row i).2.2

/-- The fixed bits of a command word, for a mask cut at ARG's left edge. -/
theorem command_bits (op mo : Byte) (arg ma : BitVec 32) (r : Nat) (h : (mo ++ ma).toNat = r) :
    (commandWord op arg).toNat &&& r = ((op &&& mo) ++ (arg &&& ma)).toNat := by
  subst h
  simp only [commandWord]
  rw [← BitVec.toNat_and, BitVec.and_append]

theorem nop : Statement .nop := ⟨by decide, by decide⟩
theorem crcClr : Statement .crcClr := ⟨by decide, by decide⟩

theorem crcByte (b : Byte) : Statement (.crcByte b) := by
  refine ⟨rfl, ?_⟩
  simp only [encode, number, row, argB]
  rw [command_bits _ 0xFF#8 _ (0xFFFFFF#24 ++ 0x00#8) 0xFFFFFFFF00 rfl, BitVec.and_append, BitVec.and_zero]
  rfl

theorem encStart (fid len : Half) : Statement (.encStart fid len) := by
  refine ⟨rfl, ?_⟩
  simp only [encode, number, row]
  rw [command_bits _ 0xFF#8 _ 0#32 0xFF00000000 rfl, BitVec.and_zero]
  rfl

theorem encData (b : Byte) : Statement (.encData b) := by
  refine ⟨rfl, ?_⟩
  simp only [encode, number, row, argB]
  rw [command_bits _ 0xFF#8 _ (0xFFFFFF#24 ++ 0x00#8) 0xFFFFFFFF00 rfl, BitVec.and_append, BitVec.and_zero]
  rfl

theorem encRc : Statement .encRc := ⟨by decide, by decide⟩

theorem decStart (fid : Half) : Statement (.decStart fid) := by
  refine ⟨rfl, ?_⟩
  simp only [encode, number, row, argHalf]
  rw [command_bits _ 0xFF#8 _ (0xFFFF#16 ++ 0x0000#16) 0xFFFFFF0000 rfl, BitVec.and_append, BitVec.and_zero]
  rfl

theorem rcSet (index : BitVec 4) (value : Half) : Statement (.rcSet index value) := by
  refine ⟨rfl, ?_⟩
  simp only [encode, number, row, argIV]
  rw [command_bits _ 0xFF#8 _ ((0xFFF#12 ++ 0x0#4) ++ 0x0000#16) 0xFFFFF00000 rfl, BitVec.and_append, BitVec.and_append,
    BitVec.and_zero, BitVec.and_zero]
  rfl

theorem rcLoadBegin : Statement .rcLoadBegin := ⟨by decide, by decide⟩

theorem rcLoadVal (value : Half) : Statement (.rcLoadVal value) := by
  refine ⟨rfl, ?_⟩
  simp only [encode, number, row, argHalf]
  rw [command_bits _ 0xFF#8 _ (0xFFFF#16 ++ 0x0000#16) 0xFFFFFF0000 rfl, BitVec.and_append, BitVec.and_zero]
  rfl

theorem rcLoadEnd : Statement .rcLoadEnd := ⟨by decide, by decide⟩
theorem fidStatus : Statement .fidStatus := ⟨by decide, by decide⟩
theorem fidRawImu : Statement .fidRawImu := ⟨by decide, by decide⟩
theorem fidRc : Statement .fidRc := ⟨by decide, by decide⟩
theorem fidGps : Statement .fidGps := ⟨by decide, by decide⟩
theorem fidAltitude : Statement .fidAltitude := ⟨by decide, by decide⟩
theorem fidSetRawRc : Statement .fidSetRawRc := ⟨by decide, by decide⟩
theorem preambleRequest : Statement .preambleRequest := ⟨by decide, by decide⟩
theorem preambleResponse : Statement .preambleResponse := ⟨by decide, by decide⟩

end Sys2Proof.Laws.TableRow
end

