-- ==== Sys2Proof/Tests/Slice0.lean ====
section
/-!
SUPPORT. Tests of the model against the encodings and vectors of spec/, the checks of WellFormed and the assembler, and
for each obligation with hypotheses a witness that meets them. Every expected value is the spec's, named in the
docstring (95_test_vectors.md unless another file is named).
-/

namespace Sys2Proof.Tests

open Sys2Proof Sys2Proof.Machine

/-- The state of an outcome; a machine that stopped gives the reset state with ILL set, which no vector expects. -/
def after (o : Host.Outcome State Fault Refusal) : State :=
  match o with
  | .next t => t
  | .fault _ => { State.reset with ill := true }
  | .refused _ => { State.reset with ill := true }

/-- The state after events from reset. -/
def run (es : List Event) : State := after (handleAll es State.reset)

/-- A command word `OO_AAAAAAAA` as an event (R95). -/
def c (w : Nat) : Event := .cmd (BitVec.ofNat 40 w)

/-- Bytes of RX lines (R100). -/
def rx (bs : List Nat) : Event := .wire (bs.map (BitVec.ofNat 8))

/-- Bytes as numbers. -/
def bytes (l : List Byte) : List Nat := l.map BitVec.toNat

/-! ### WellFormed refuses each ill-formed line (R100, R101) -/

theorem test_wf_refuses_byte : SourceLine.wellFormed (.crcByte 0x100) = false := by decide
theorem test_wf_refuses_data_byte : SourceLine.wellFormed (.encData 0x100) = false := by decide
theorem test_wf_refuses_fid : SourceLine.wellFormed (.encStart 0x10000 0) = false := by decide
theorem test_wf_refuses_len : SourceLine.wellFormed (.encStart 0 0x10000) = false := by decide
theorem test_wf_refuses_expect : SourceLine.wellFormed (.decStart 0x10000) = false := by decide
theorem test_wf_refuses_index : SourceLine.wellFormed (.rcSet 16 0) = false := by decide
theorem test_wf_refuses_value : SourceLine.wellFormed (.rcSet 0 0x10000) = false := by decide
theorem test_wf_refuses_load_value : SourceLine.wellFormed (.rcLoadVal 0x10000) = false := by decide
theorem test_wf_refuses_enc0 : SourceLine.wellFormed (.enc0 0x10000) = false := by decide
theorem test_wf_refuses_enc_fid : SourceLine.wellFormed (.enc 0x10000 [1]) = false := by decide
theorem test_wf_refuses_enc_byte : SourceLine.wellFormed (.enc 101 [1, 0x100]) = false := by decide
theorem test_wf_refuses_enc_length : SourceLine.wellFormed (.enc 101 (List.replicate 65536 0)) = false := by
  simp only [SourceLine.wellFormed, fitsHalf, List.length_replicate]; rfl
theorem test_wf_refuses_crc : SourceLine.wellFormed (.crc [0x100]) = false := by decide
theorem test_wf_refuses_rcLoad : SourceLine.wellFormed (.rcLoad [1500, 0x10000]) = false := by decide
theorem test_wf_refuses_rx : SourceLine.wellFormed (.rx [0x24, 0x100]) = false := by decide
theorem test_wf_accepts_limits : SourceLine.wellFormed (.rcSet 15 0xFFFF) = true := by decide

/-! ### Decoding: every constructor by a word written from its encoding (R95 to R97, R81, R87; sections 2 to 6) -/

theorem test_decode_nop : decodeTableWord 40 0x0000000000 = some .nop := by decide
theorem test_decode_crcClr : decodeTableWord 40 0x0100000000 = some .crcClr := by decide
theorem test_decode_crcByte : decodeTableWord 40 0x02000000FF = some (.crcByte 0xFF#8) := by decide
theorem test_decode_encStart : decodeTableWord 40 0x100001ABCD = some (.encStart 0xABCD#16 1#16) := by decide
theorem test_decode_encData : decodeTableWord 40 0x1100000042 = some (.encData 0x42#8) := by decide
theorem test_decode_encRc : decodeTableWord 40 0x1200000000 = some .encRc := by decide
theorem test_decode_decStart : decodeTableWord 40 0x2000000069 = some (.decStart 105#16) := by decide
theorem test_decode_rcSet : decodeTableWord 40 0x300006076C = some (.rcSet 6#4 1900#16) := by decide
theorem test_decode_rcLoadBegin : decodeTableWord 40 0x3100000000 = some .rcLoadBegin := by decide
theorem test_decode_rcLoadVal : decodeTableWord 40 0x320000044C = some (.rcLoadVal 1100#16) := by decide
theorem test_decode_rcLoadEnd : decodeTableWord 40 0x3300000000 = some .rcLoadEnd := by decide
theorem test_decode_fidStatus : decodeTableWord 16 0x0065 = some .fidStatus := by decide
theorem test_decode_fidRawImu : decodeTableWord 16 0x0066 = some .fidRawImu := by decide
theorem test_decode_fidRc : decodeTableWord 16 0x0069 = some .fidRc := by decide
theorem test_decode_fidGps : decodeTableWord 16 0x006B = some .fidGps := by decide
theorem test_decode_fidAltitude : decodeTableWord 16 0x006D = some .fidAltitude := by decide
theorem test_decode_fidSetRawRc : decodeTableWord 16 0x00C8 = some .fidSetRawRc := by decide
theorem test_decode_preambleRequest : decodeTableWord 24 0x24583C = some .preambleRequest := by decide
theorem test_decode_preambleResponse : decodeTableWord 24 0x24583E = some .preambleResponse := by decide
/-- X6-1, X6-2: reserved opcodes; X6-4, X6-5, X6-6, X6-8: reserved bits. -/
theorem test_decode_rejects :
    [0x0300000000, 0xFF12345678, 0x0200000100, 0x2000010000, 0x3000100005, 0x3180000000].map (decodeTableWord 40) =
      List.replicate 6 none := by decide

/-! ### One step from reset: the word placed at the fetch runs (log 2) -/

theorem test_fetch_encStart : bytes (after (step (State.reset.withFetchWord 40 0x1000000065))).tx =
    [0x24, 0x58, 0x3C, 0x00, 0x65, 0x00, 0x00, 0x00, 0xCA] := by decide +kernel
theorem test_fetch_fid : bytes (after (step (State.reset.withFetchWord 16 0x00C8))).rx = [0xC8, 0x00] := by decide

/-! ### CRC (section 2) -/

/-- V2-3. -/
theorem test_crc_check_value : crc8 ([0x31, 0x32, 0x33, 0x34, 0x35, 0x36, 0x37, 0x38, 0x39].map (BitVec.ofNat 8)) = 0xBC#8 := by
  decide +kernel
/-- V2-2. -/
theorem test_crc_update_80 : crc8Update 0#8 0x80#8 = 0xEF#8 := by decide
/-- V2-5a. -/
theorem test_crcByte : (run [c 0x0200000001]).crcAcc = 0xD5#8 := by decide
/-- V2-5b. -/
theorem test_crcClr : (run [c 0x0200000001, c 0x0100000000]).crcAcc = 0x00#8 := by decide
/-- X6-3: NOP with a reserved bit. -/
theorem test_nop_reserved : (run [c 0x0000000001]).status = 0x00005000#32 := by decide
/-- X6-19: NOP is legal and changes nothing. -/
theorem test_nop : run [c 0x0000000000] = State.reset := by decide

/-! ### ENC (section 3) -/

/-- E3-17: a frame in progress. -/
theorem test_encStart_open :
    (run [c 0x1000020065]).status = 1#32 ∧ (run [c 0x1000020065]).encCrc = 0xDC#8 ∧
      (run [c 0x1000020065]).encRemain = 2#16 := by decide +kernel
/-- E3-7: an all-zero frame. -/
theorem test_encStart_zero :
    bytes (run [c 0x1000000000]).tx = [0x24, 0x58, 0x3C, 0x00, 0x00, 0x00, 0x00, 0x00, 0x00] := by decide +kernel
/-- E3-17: after the first data byte. -/
theorem test_encData_more :
    (run [c 0x1000020065, c 0x1100000001]).encCrc = 0x22#8 ∧ (run [c 0x1000020065, c 0x1100000001]).encRemain = 1#16 := by
  decide +kernel
/-- P5, up to the completed frame. -/
theorem test_encData_last :
    bytes (run [c 0x1000020065, c 0x1000000066, c 0x1100000001, c 0x1100000002]).tx =
      [0x24, 0x58, 0x3C, 0x00, 0x65, 0x00, 0x02, 0x00, 0x01, 0x02, 0xA4] ∧
    (run [c 0x1000020065, c 0x1000000066, c 0x1100000001, c 0x1100000002]).status = 0x00007000#32 := by decide +kernel
/-- R5-12: the low byte of a channel comes first. -/
theorem test_encRc :
    ((bytes (run [c 0x3000001234, c 0x1200000000]).tx).drop 4).take 7 = [0xC8, 0x00, 0x20, 0x00, 0x34, 0x12, 0xDC] ∧
    (bytes (run [c 0x3000001234, c 0x1200000000]).tx).getLast? = some 0xD2 := by decide +kernel
/-- X6-12: ENC_RC while busy. -/
theorem test_encRc_busy : (run [c 0x1000010065, c 0x1200000000]).status = 0x00007001#32 := by decide

/-! ### DEC (section 4) -/

/-- D4-1. -/
theorem test_decStart : (run [c 0x2000000065]).status = 2#32 ∧ (run [c 0x2000000065]).decExpect = 101#16 := by decide
/-- D4-18. -/
theorem test_decStart_busy :
    (run [c 0x2000000065, c 0x2000000066]).status = 0x0000B002#32 ∧
      (run [c 0x2000000065, c 0x2000000066]).decExpect = 101#16 := by decide
/-- D4-8: garbage before the preamble. -/
theorem test_dec_garbage :
    (run [c 0x2000000065, rx [0x00, 0xFF, 0x24, 0x58, 0x3C, 0x24, 0x24],
      rx [0x24, 0x58, 0x3E, 0x00, 0x65, 0x00, 0x00, 0x00, 0xCA]]).status = 0x00000078#32 := by decide +kernel
/-- D4-5: the checksum mismatch has priority. -/
theorem test_dec_mismatch :
    (run [c 0x2000000065, rx [0x24, 0x58, 0x3E, 0x00, 0x66, 0x00, 0x00, 0x00, 0x00]]).status = 0x00000408#32 := by decide +kernel
/-- D4-19: the second frame stays pending, and a second decode reads it. -/
theorem test_dec_two_frames :
    let frames := rx [0x24, 0x58, 0x3E, 0x00, 0x65, 0x00, 0x00, 0x00, 0xCA,
      0x24, 0x58, 0x3E, 0x00, 0x65, 0x00, 0x01, 0x00, 0x07, 0xF3]
    let t := run ([c 0x2000000065, frames, c 0x2000000065] ++ List.replicate 10 .rx)
    (run [c 0x2000000065, frames]).rx.length = 10 ∧ t.status = 0x00000078#32 ∧ t.portDecPayload 0 = 0x07#8 ∧
      t.decCrcCalc = 0xF3#8 := by decide +kernel
/-- D4-16: a body timeout. -/
theorem test_dec_timeout_body :
    (run [c 0x2000000065, rx [0x24, 0x58, 0x3E, 0x00, 0x65, 0x00, 0x02, 0x00, 0x01, 0x02], .timeout]).status =
      0x0000038A#32 := by decide
/-- D4-17: nothing is enabled in Idle. -/
theorem test_dec_idle : run [.arrive 0x24#8, .rx, .timeout] = { State.reset with rx := [0x24#8] } := by decide

/-! ### RCF (section 5) and rejected commands (section 6) -/

/-- R5-2. -/
theorem test_rcSet : (run [c 0x30000204B0]).rc = (Vector.replicate 16 1500#16).set 2 1200#16 := by decide
/-- R5-7. -/
theorem test_rcLoad :
    (run [c 0x3100000000, c 0x320000044C, c 0x32000004B0, c 0x3200000514, c 0x3300000000]).rc =
      (((Vector.replicate 16 1500#16).set 0 1100#16).set 1 1200#16).set 2 1300#16 := by decide
/-- X6-15. -/
theorem test_rcLoadBegin_twice : (run [c 0x3100000000, c 0x3100000000]).status = 0x0000D800#32 := by decide
/-- X6-13. -/
theorem test_rcLoadVal_closed : (run [c 0x3200000001]).status = 0x0000D000#32 := by decide
/-- X6-14. -/
theorem test_rcLoadEnd_closed : (run [c 0x3300000000]).status = 0x0000D000#32 := by decide
/-- X6-17: the most recent cause. -/
theorem test_ill_latest :
    (run [c 0x0300000000, c 0x1100000001]).status = 0x00009000#32 ∧
      (run [c 0x0300000000, c 0x1100000001]).illOp = 0x11#8 := by decide
/-- X6-18: only Reset clears ILL. -/
theorem test_ill_reset : run [c 0x0300000000, .reset] = State.reset := by decide

/-! ### The frame rows (R81, R87; log 3) -/

/-- D4-2 and D4-4 with the rows in the place of the frame's preamble and function id. -/
theorem test_rows_in_frame :
    let frame (lo : Nat) := [c 0x2000000065, rx [0x24, 0x58, 0x3E], rx [0x00], rx [lo, 0x00]]
    (run (frame 0x65 ++ [rx [0x00, 0x00, 0xCA]])).status = 0x00000078#32 ∧
    (run (frame 0x66 ++ [rx [0x00, 0x00, 0x05]])).status = 0x00000618#32 := by decide +kernel
/-- D4-7: a request preamble is noise. -/
theorem test_preambleRequest :
    (after (exec .preambleRequest (run [c 0x2000000065]))).decTail = [0x24#8, 0x58#8, 0x3C#8] := by decide
/-- R166. -/
theorem test_preambleResponse : (after (exec .preambleResponse (run [c 0x2000000065]))).status = 4#32 := by decide
/-- R87: each id's low byte comes first and is pending in Idle. -/
theorem test_fid_rows :
    [Instr.fidStatus, .fidRawImu, .fidRc, .fidGps, .fidAltitude, .fidSetRawRc].map
        (fun i => bytes (after (exec i State.reset)).rx) =
      [[0x65, 0], [0x66, 0], [0x69, 0], [0x6B, 0], [0x6D, 0], [0xC8, 0]] := by decide

/-! ### The assembler (30_encoding.md R100, R101) -/

theorem test_text_rcSet : assembleText "RC_SET 2, 1200   ; one channel".toList = some [c 0x30000204B0] := by decide +kernel
theorem test_text_hex : assembleText "ENC_DATA 0xFF".toList = some [c 0x11000000FF] := by decide +kernel
theorem test_text_enc : assembleText "ENC 101, [0x01]".toList = some [c 0x1000010065, c 0x1100000001] := by decide +kernel
theorem test_text_rx : assembleText "RX 0x24, 0x58".toList = some [.wire [0x24#8], .wire [0x58#8]] := by decide +kernel
theorem test_text_load : assembleText "RC_LOAD []".toList = some [c 0x3100000000, c 0x3300000000] := by decide +kernel
theorem test_text_query : assembleText "STATUS_QUERY".toList = some [c 0x1000000065, c 0x2000000065] := by decide +kernel
theorem test_text_range : assembleText "CRC_BYTE 256".toList = none := by decide +kernel

/-! ### Witnesses: a concrete state and operands for the hypotheses of each obligation, clause by clause -/

/-- ENC waits for two payload bytes. -/
def busy2 : State := run [c 0x1000020065]
/-- ENC waits for one payload byte. -/
def busy1 : State := run [c 0x1000010065]
/-- DEC in Scanning with nothing scanned. -/
def scanning : State := run [c 0x2000000065]
/-- DEC in HeaderRead with `3 + bs.length` header bytes. -/
def header (bs : List Nat) : State := run [c 0x2000000065, rx ([0x24, 0x58, 0x3E] ++ bs)]
/-- DEC in HeaderComplete, length `n`, with some of the payload. -/
def body (n : Nat) (bs : List Nat) : State := run [c 0x2000000065, rx ([0x24, 0x58, 0x3E, 0x00, 0x65, 0x00, n, 0x00] ++ bs)]
/-- DEC in BodyComplete. -/
def complete (lo chk : Nat) : State := run [c 0x2000000065, rx [0x24, 0x58, 0x3E, 0x00, lo, 0x00, 0x00, 0x00, chk]]
/-- DEC in Failed. -/
def failed : State := run [c 0x2000000065, .timeout]
/-- A load is open. -/
def loading : State := run [c 0x3100000000]
/-- A load with 15 staged values. -/
def loaded15 : State := run (c 0x3100000000 :: List.replicate 15 (c 0x3200000001))
/-- A load with 16 staged values. -/
def loaded16 : State := run (c 0x3100000000 :: List.replicate 16 (c 0x3200000001))
/-- A state with a byte pending on RX. -/
def State.pending (s : State) (b : Byte) : State := { s with rx := b :: s.rx }

theorem inactive_reset : Spec.DecInactive State.reset := .inl rfl
theorem inactive_complete : Spec.DecInactive (complete 0x65 0xCA) := .inr (.inl (by decide +kernel))
theorem inactive_failed : Spec.DecInactive failed := .inr (.inr (by decide))
theorem active_scanning : ¬ Spec.DecInactive scanning := by simp only [Spec.DecInactive]; decide

theorem witness_EachEncodingHasOneMeaning :
    decode (.wire [0x65#8, 0x00#8]) = some .fidStatus ∧ decode (.command 0x30000204B0#40) = some (.rcSet 2#4 1200#16) := by
  decide

theorem witness_ReservedWordsRejectedInOrder :
    (∀ op ∈ [0x03#8, 0x0F#8, 0x13#8, 0x1F#8, 0x21#8, 0x2F#8, 0x34#8, 0xFF#8], Spec.ReservedOpcode op) ∧
      (¬ Spec.ReservedOpcode 0x30#8 ∧ Spec.reservedBitSet 0x3000100000#40) ∧
      ¬ Spec.ReservedOpcode 0x33#8 ∧ ¬ Spec.reservedBitSet 0x3300000000#40 := by
  simp only [Spec.ReservedOpcode, Spec.reservedBitSet]
  decide

theorem witness_StepRunsDecodedInstruction :
    ({ State.reset with events := [c 0] } : State).events = .cmd 0#40 :: [] ∧ decode (.command 0#40) = some .nop ∧
      ({ State.reset with events := [rx [0x65, 0]] } : State).events = .wire [0x65#8, 0#8] :: [] ∧
      decode (.wire [0x65#8, 0#8]) = some .fidStatus ∧ State.reset.events = [] := by decide

theorem witness_ScheduleRunsInOrder :
    ({ State.reset with events := [c 0, .rx] } : State).events = [c 0] ++ [.rx] := rfl

theorem witness_RejectionChangesOnlyIllRegisters :
    ¬ Spec.ReservedOpcode 0x10#8 ∧ ¬ Spec.reservedBitSet 0x1000010065#40 ∧
      Spec.stateCondition 0x10#8 busy2 = some .encoderBusy ∧ Spec.stateCondition 0x11#8 State.reset = some .encoderIdle ∧
      Spec.stateCondition 0x20#8 scanning = some .decoderBusy ∧ Spec.stateCondition 0x31#8 loading = some .loadState ∧
      Spec.stateCondition 0x32#8 State.reset = some .loadState ∧ Spec.stateCondition 0x10#8 State.reset = none := by
  simp only [Spec.ReservedOpcode, Spec.reservedBitSet]
  decide

theorem witness_IllStickyUntilReset :
    Event.timeout ≠ .reset ∧ (run [c 0x0300000000]).ill = true ∧
      handle .timeout (run [c 0x0300000000]) = .next (timeoutEvent (run [c 0x0300000000])) := ⟨by decide, by decide, rfl⟩

theorem witness_NopAndCrcCommands : (1#32 ≠ 0#32) ∧ (1#24 ≠ 0#24) := by decide

theorem witness_CrcDetectsSingleByteChange : (0x00#8 : Byte) ≠ 0x80#8 := by decide

theorem witness_CrcuIndependentOfEncAndDec :
    (∃ fid len, Instr.encStart 1#16 2#16 = .encStart fid len) ∧ ∃ bs, Event.wire [0x24#8] = .wire bs :=
  ⟨⟨_, _, rfl⟩, _, rfl⟩

theorem witness_EncStartEmitsHeader : busy2.encBusy = true ∧ State.reset.encBusy = false ∧ (1#16 ≠ 0#16) := by decide

theorem witness_EncDataEmitsPayloadAndChecksum :
    (1#24 ≠ 0#24) ∧ State.reset.encBusy = false ∧ (busy1.encBusy = true ∧ busy1.encRemain = 1#16) ∧
      busy2.encBusy = true ∧ 1 < busy2.encRemain.toNat := by decide

theorem witness_EncRcEmitsSetRawRcFrame : (1#32 ≠ 0#32) ∧ busy1.encBusy = true ∧ State.reset.encBusy = false := by decide

theorem witness_EncRcEqualsLongForm : State.reset.encBusy = false := rfl

theorem witness_EncodedFrameIsWellFormedRequest :
    State.reset.encBusy = false ∧ ([] : List Byte).length ≤ 65535 ∧ (List.replicate 65535 0x00#8).length ≤ 65535 :=
  ⟨rfl, by decide, by simp only [List.length_replicate]; decide⟩

theorem witness_LastDataByteCompletesFrame : EncStreamOk busy1 ∧ busy1.encBusy = true ∧ busy1.encRemain = 1#16 :=
  ⟨fun _ => ⟨[], [], by decide +kernel⟩, by decide, by decide⟩

/-- A frame in progress meets the encoder's invariant, and its next data byte is a step. -/
theorem witness_StepKeepsEncoderStream :
    EncStreamOk busy2 ∧ busy2.encBusy = true ∧
      ∃ t, step { busy2 with events := [c 0x1100000001] } = .next t :=
  ⟨fun _ => ⟨[], [], by decide +kernel⟩, by decide, _, rfl⟩

theorem witness_OnlyEncoderAppendsToTx :
    handle (c 0x1000000065) State.reset = .next (run [c 0x1000000065]) ∧
      (run [c 0x1000000065]).tx = State.reset.tx ++ (run [c 0x1000000065]).tx ∧ (run [c 0x1000000065]).tx ≠ [] := by
  exact ⟨rfl, rfl, by decide⟩

theorem witness_OtherEventsKeepFrameInProgress :
    c 0x0100000000 ≠ .reset ∧ (0x0100000000#40).extractLsb' 32 8 ∉ [0x10#8, 0x11#8, 0x12#8] ∧
      handle (c 0x0100000000) busy2 = .next { busy2 with crcAcc := 0x00#8 } := ⟨by decide, by decide, rfl⟩

theorem witness_DecStartClearsAndScans : (1#16 ≠ 0#16) ∧ ¬ Spec.DecInactive scanning ∧ Spec.DecInactive failed :=
  ⟨by decide, active_scanning, inactive_failed⟩

theorem witness_RxTakesOnePendingByteWhenActive :
    Spec.DecInactive State.reset ∧ State.reset.rx = [] ∧ ¬ Spec.DecInactive (State.pending scanning 0x24#8) ∧
      (State.pending scanning 0x24#8).rx = 0x24#8 :: [] :=
  ⟨inactive_reset, rfl, active_scanning, by decide⟩

/-- A byte that ends the preamble and a byte that does not. -/
theorem witness_RxScanTestsLastThreeBytes :
    let s := run [c 0x2000000065, rx [0x24, 0x58]]
    s.decState = .scanning ∧ (State.pending s 0x3E#8).rx = 0x3E#8 :: [] ∧
      lastN (s.decTail ++ [0x3E#8]) 64 = [] ++ [0x24#8, 0x58#8, 0x3E#8] ∧
      ¬ ∃ u : List Byte, lastN (s.decTail ++ [0x3C#8]) 64 = u ++ [0x24#8, 0x58#8, 0x3E#8] := by
  refine ⟨by decide, by decide, by decide, ?_⟩
  rintro ⟨u, hu⟩
  have := congrArg List.getLast? hu
  revert this
  rw [List.getLast?_append_of_ne_nil u (by simp)]
  decide

/-- Header positions 3, 6 and 7. -/
theorem witness_RxHeaderCollectsFields :
    ((header []).decState = .headerRead ∧ (header []).decHcnt = BitVec.ofNat 4 3) ∧
      ((header [0, 0, 0]).decState = .headerRead ∧ (header [0, 0, 0]).decHcnt = BitVec.ofNat 4 6) ∧
      (header [0, 0, 0, 0]).decState = .headerRead ∧ (header [0, 0, 0, 0]).decHcnt = BitVec.ofNat 4 7 ∧
      (State.pending (header []) 1#8).rx = 1#8 :: [] := by decide

/-- The first and the last payload byte of two. -/
theorem witness_RxPayloadStoresByte :
    ((body 2 []).decState = .headerComplete ∧ (body 2 []).decPcnt.toNat < (body 2 []).decLen.toNat ∧
        Memory.wf (body 2 []).decPayload) ∧
      (body 2 [7]).decState = .headerComplete ∧ (body 2 [7]).decPcnt.toNat < (body 2 [7]).decLen.toNat ∧
        Memory.wf (body 2 [7]).decPayload ∧ (State.pending (body 2 [7]) 1#8).rx = 1#8 :: [] := by decide +kernel

/-- The checksum after a payload, and after none. -/
theorem witness_RxChecksumCompletesBody :
    ((body 1 [7]).decState = .headerComplete ∧ (body 1 [7]).decPcnt = (body 1 [7]).decLen) ∧
      (body 0 []).decState = .headerComplete ∧ (body 0 []).decPcnt = (body 0 []).decLen ∧
      (State.pending (body 0 []) 1#8).rx = 1#8 :: [] := by decide

theorem witness_TimeoutFailsActivePhase :
    Spec.DecInactive State.reset ∧ scanning.decState = .scanning ∧ (header []).decState = .headerRead ∧
      (body 2 []).decState = .headerComplete := ⟨inactive_reset, by decide, by decide, by decide⟩

theorem witness_DeadlineTimerRaisesTimeout :
    (scanning.timer = some 0 ∧ scanning.decState = .scanning) ∧
      ((header []).timer = some 0 ∧ (header []).decState = .headerRead) ∧
      ((body 2 []).timer = some 0 ∧ (body 2 []).decState = .headerComplete) ∧ State.reset.timer = none := by decide

/-- Noise that ends like the start of a preamble. -/
theorem witness_ScanLeavesAtFirstPreamble :
    scanning.decState = .scanning ∧ scanning.decTail = [] ∧ scanning.rx = [] ∧
      ¬ [0x24#8, 0x58#8, 0x3E#8] <:+: [0x24#8, 0x58#8, 0x3C#8, 0x24#8, 0x58#8] := by decide

theorem witness_DecodeYieldsResponseAfterNoise :
    Spec.DecInactive State.reset ∧ State.reset.rx = [] ∧ ([0x07#8] : List Byte).length ≤ 65535 ∧
      ¬ [0x24#8, 0x58#8, 0x3E#8] <:+: [0x24#8, 0x58#8] ∧ Memory.wf State.reset.decPayload :=
  ⟨inactive_reset, rfl, by decide, by decide, by decide⟩

theorem witness_EncodeThenDecodeRoundTrip :
    State.reset.encBusy = false ∧ Spec.DecInactive State.reset ∧ State.reset.rx = [] ∧
      ([] : List Byte).length ≤ 65535 ∧ Memory.wf State.reset.decPayload :=
  ⟨rfl, inactive_reset, rfl, by decide, by decide⟩

/-- The flags byte, the id's high byte, the payload byte and the checksum. -/
theorem witness_CorruptedByteIsReported :
    Spec.DecInactive State.reset ∧ State.reset.rx = [] ∧ Memory.wf State.reset.decPayload ∧
      (∀ k ∈ [3, 5, 8, 9], 3 ≤ k ∧ k < 6 ∨ 8 ≤ k ∧ k < 9 + [0x07#8].length) ∧
      ∀ k ∈ [3, 5, 8, 9],
        (responseFrame 0#8 101#16 [0x07#8] (crc8 (frameRegion 0#8 101#16 [0x07#8])))[k]? ≠ some 0xFF#8 :=
  ⟨inactive_reset, rfl, by decide, by decide, by decide +kernel⟩

/-- The invariant holds in a state a decode has failed in. -/
theorem witness_FailedDecodeShowsNoResponse : Inv failed ∧ failed.decState = .failed :=
  ⟨⟨by decide, by decide, by decide, by decide, by decide, by decide, by decide, by decide⟩, by decide⟩

/-- The invariant holds where a decode has succeeded. -/
theorem witness_StatusOkMeansValidResponse :
    Inv (complete 0x65 0xCA) ∧ (complete 0x65 0xCA).decStatusOk = true ∧ failed.decState = .failed :=
  ⟨⟨by decide +kernel, by decide +kernel, by decide +kernel, by decide +kernel, by decide +kernel, by decide +kernel,
    by decide +kernel, by decide +kernel⟩, by decide +kernel, by decide⟩

theorem witness_DecodeTerminates :
    (Inv scanning ∧ scanning.rx = [] ∧ scanning.decState.active = true) ∧
      (Inv (header []) ∧ (header []).rx = [] ∧ (header []).decState = .headerRead ∧
        ([0, 0, 0, 0, 0] : List Byte).length = 8 - (header []).decHcnt.toNat) ∧
      Inv (body 2 [7]) ∧ (body 2 [7]).rx = [] ∧ (body 2 [7]).decState = .headerComplete ∧
        ([8, 9] : List Byte).length = (body 2 [7]).decLen.toNat - (body 2 [7]).decPcnt.toNat + 1 :=
  ⟨⟨⟨by decide, by decide, by decide, by decide, by decide, by decide, by decide, by decide⟩, by decide, by decide⟩,
    ⟨⟨by decide, by decide, by decide, by decide, by decide, by decide, by decide, by decide⟩, by decide, by decide,
      by decide⟩,
    ⟨by decide +kernel, by decide +kernel, by decide +kernel, by decide +kernel, by decide +kernel, by decide +kernel,
      by decide +kernel, by decide +kernel⟩, by decide, by decide, by decide⟩

theorem witness_DecEventsTouchOnlyDec : (∃ d, Event.elapse 3 = .elapse d) ∧ ∃ b, Event.arrive 0#8 = .arrive b :=
  ⟨⟨_, rfl⟩, _, rfl⟩

/-- Every case of the summary occurs. -/
theorem witness_DecCauseSummary :
    failed.decState = .failed ∧
      ((complete 0x65 0xCB).decState = .bodyComplete ∧ (complete 0x65 0xCB).decCrcOk = false) ∧
      ((complete 0x66 0x05).decState = .bodyComplete ∧ (complete 0x66 0x05).decCrcOk = true ∧
        (complete 0x66 0x05).decFidMatch = false) ∧
      ((complete 0x65 0xCA).decCrcOk = true ∧ (complete 0x65 0xCA).decFidMatch = true) ∧
      scanning.decState ≠ .failed ∧ scanning.decState ≠ .bodyComplete := by decide +kernel

theorem witness_FrameRowsArriveOnRx :
    (Instr.fidGps, 0x6B#8) ∈ [(Instr.fidStatus, 0x65#8), (.fidRawImu, 0x66#8), (.fidRc, 0x69#8), (.fidGps, 0x6B#8),
      (.fidAltitude, 0x6D#8), (.fidSetRawRc, 0xC8#8)] := by decide

theorem witness_FrameRowsDriveDecoder :
    (scanning.decState = .scanning ∧ scanning.rx = []) ∧
      ((header [0]).decState = .headerRead ∧ (header [0]).rx = [] ∧ (header [0]).decHcnt = 4#4) ∧
      Spec.DecInactive State.reset := ⟨by decide, by decide, inactive_reset⟩

theorem witness_RcSetWritesOneChannel : (1#12 ≠ 0#12) := by decide

/-- No value staged, 15 staged and 16 staged; no load open. -/
theorem witness_RcLoadCommands :
    State.reset.rcLoading = false ∧ (loading.rcLoading = true ∧ loading.rcLcnt.toNat < 16) ∧
      (loaded15.rcLoading = true ∧ loaded15.rcLcnt.toNat < 16) ∧
      (loaded16.rcLoading = true ∧ 16 ≤ loaded16.rcLcnt.toNat) ∧ (1#16 ≠ 0#16) ∧ (1#32 ≠ 0#32) := by decide +kernel

theorem witness_ClampOrPadLaw : State.reset.rcLoading = false := rfl

theorem witness_OnlyRcfCommandsChangeRc :
    handle (c 0x30000204B0) State.reset = .next (run [c 0x30000204B0]) ∧
      (run [c 0x30000204B0]).rc ≠ State.reset.rc := ⟨rfl, by decide⟩

theorem witness_RcUpdatesDuringLoad :
    loading.rcLoading = true ∧ State.reset.rcLoading = false ∧
      handleAll ((Spec.loadEvents [1111#16]).dropLast ++ [.cmd (Spec.word 0x12#8 0#32)]) State.reset =
        .next (run ((Spec.loadEvents [1111#16]).dropLast ++ [.cmd (Spec.word 0x12#8 0#32)])) ∧
      handle (.cmd (Spec.word 0x12#8 0#32)) State.reset = .next (run [.cmd (Spec.word 0x12#8 0#32)]) :=
  ⟨by decide, rfl, rfl, rfl⟩

theorem witness_OutputPortsReadRegisters :
    ((body 1 [0x42, 0x45]).decState = .bodyComplete ∧ 0 < (body 1 [0x42, 0x45]).decLen.toNat ∧
      (body 1 [0x42, 0x45]).decLen.toNat ≤ 1) ∧ State.reset.decState ≠ .bodyComplete := by
  decide +kernel

/-- Each flag's change occurs. -/
theorem witness_StatusFlagsLifetime :
    (State.reset.encBusy = false ∧ (run [c 0x1000010065]).encBusy = true) ∧
      (busy1.encBusy = true ∧ (after (handle (c 0x1100000005) busy1)).encBusy = false) ∧
      ((after (handle (rx [0xCA]) (body 0 []))).decCrcOk ≠ (body 0 []).decCrcOk) ∧
      (State.reset.rcLoading = false ∧ loading.rcLoading = true) ∧
      (loading.rcLoading = true ∧ (after (handle (c 0x3300000000) loading)).rcLoading = false) ∧
      (State.reset.ill = false ∧ (run [c 0x0300000000]).ill = true) ∧
      (run [c 0x0300000000]).ill = true ∧ (after (handle .reset (run [c 0x0300000000]))).ill = false := by decide +kernel

theorem witness_IdempotentCommands :
    (loaded16.rcLoading = true ∧ loaded16.rcLcnt = 16#5) ∧
      handle (.cmd 0x1100000005#40) State.reset = .next (Spec.rejected State.reset .encoderIdle 0x11#8) ∧
      (0x1100000005#40).extractLsb' 32 8 = 0x11#8 := ⟨by decide +kernel, rfl, by decide⟩

theorem witness_StepKeepsInvariant : Inv State.reset ∧ Inv failed :=
  ⟨⟨by decide, by decide, by decide, by decide, by decide, by decide, by decide, by decide⟩,
    witness_FailedDecodeShowsNoResponse.1⟩

/-- The limits of each operand field. -/
theorem witness_AssemblerChecksOperands :
    assemble (.rcSet 15 0xFFFF) = some [c 0x30000FFFFF] ∧ assemble (.rcSet 16 0) = none ∧
      assemble (.encStart 0xFFFF 0xFFFF) = some [c 0x10FFFFFFFF] := by decide

theorem witness_PseudoInstructionsExpand :
    ([0x01#8] : List Byte).length ≤ 65535 ∧ 65535 < (List.replicate 65536 0).length :=
  ⟨by decide, by simp only [List.length_replicate]; decide⟩

end Sys2Proof.Tests
end

section
/-!
PROOFS. One step of the machine: taking the next event off the schedule, and what an event that delivers an
instruction's encoding runs as.
-/

namespace Sys2Proof

/-- A command word decodes to an instruction exactly when none of R98's steps rejects it. -/
theorem decode_command_eq_some_iff {w : CmdWord} {i : Instr} :
    decode (.command w) = some i ↔ decodeCommand w = .ok i := by
  rw [decode]
  cases decodeCommand w with
  | ok j => simp [Except.toOption]
  | error r => simp [Except.toOption]

end Sys2Proof

namespace Sys2Proof.Machine

theorem step_of_events_nil {s : State} (h : s.events = []) : step s = .next s := by
  simp [step, h]

theorem step_of_events_cons {s : State} {e : Event} {rest : List Event} (h : s.events = e :: rest) :
    step s = handle e { s with events := rest } := by
  simp [step, h]

theorem runWire_some {bs : List Byte} {i : Instr} (h : decodeWire bs = some i) (s : State) :
    runWire bs s = exec i s := by
  simp [runWire, h]

/-- The event that delivers an encoding runs the instruction it decodes to, in both encoding spaces. -/
theorem handle_encodingEvent {e : Encoding} {i : Instr} (h : decode e = some i) (s : State) :
    handle (encodingEvent e) s = exec i s := by
  cases e with
  | command w => exact runCommand_ok (decode_command_eq_some_iff.mp h) s
  | wire bs => exact runWire_some h s

/-- A step whose next event delivers an encoding runs the instruction it decodes to. -/
theorem step_of_encodingEvent {s : State} {e : Encoding} {rest : List Event} {i : Instr}
    (hs : s.events = encodingEvent e :: rest) (hd : decode e = some i) :
    step s = exec i { s with events := rest } := by
  rw [step_of_events_cons hs, handle_encodingEvent hd]

/-- Settles O5: the command and the wire clause are one fact about delivered encodings. -/
theorem stepRunsDecodedInstruction : Obligations.StepRunsDecodedInstruction := by
  unfold Obligations.StepRunsDecodedInstruction
  refine ⟨?_, ?_, ?_, ?_⟩
  · intro s w rest i hs hd
    exact step_of_encodingEvent (e := .command w) hs hd
  · intro s bs rest i hs hd
    exact step_of_encodingEvent (e := .wire bs) hs hd
  · intro s e rest hs
    exact step_of_events_cons hs
  · intro s hs
    exact step_of_events_nil hs

end Sys2Proof.Machine
end

section
/-!
PROOFS. What an event can do, said once for every event: a command word has one of the effects of `CmdEffect`, Reset
gives the reset state, and every other event is a run of the decoder's own moves.
-/

namespace Sys2Proof.Machine

open Relation

/-- One move of the decoder and its environment: a byte arrives on RX (R44), an active phase takes the first pending
byte (R165) or ends in Timeout (R176), or an armed timer advances (R241). -/
inductive DecMove (s : State) : State → Prop where
  | arrive (b : Byte) : DecMove s (s.arrive b)
  | take {b : Byte} {rest : List Byte} (ha : s.decState.active = true) (hx : s.rx = b :: rest) :
    DecMove s (rxByte b { s with rx := rest })
  | timeout (ha : s.decState.active = true) : DecMove s (timeoutEvent s)
  | tick {t : Nat} (ht : s.timer = some t) (d : Nat) : DecMove s { s with timer := some (t + d) }

theorem rxEvent_moves (s : State) : ReflTransGen DecMove s (rxEvent s) := by
  cases ha : s.decState.active with
  | false => rw [rxEvent_inactive ha]
  | true =>
    cases hx : s.rx with
    | nil => rw [rxEvent_empty hx]
    | cons b rest =>
      rw [rxEvent_cons ha hx]
      exact .single (.take ha hx)

theorem rxBytes_moves (bs : List Byte) (s : State) : ReflTransGen DecMove s (rxBytes bs s) := by
  induction bs generalizing s with
  | nil => rfl
  | cons b rest ih =>
    rw [rxBytes_cons]
    exact .head (.arrive b) ((rxEvent_moves _).trans (ih _))

/-- In an inactive state Timeout does nothing (R176). -/
theorem timeoutEvent_inactive {s : State} (h : s.decState.active = false) : timeoutEvent s = s := by
  simp [timeoutEvent, h]

/-- In an active phase Timeout records the phase, clears the header fields and enters Failed (R176). -/
theorem timeoutEvent_active {s : State} (h : s.decState.active = true) :
    timeoutEvent s =
      ({ s with
          decFailPhase := s.decState.failPhase, decFlags := 0x00#8, decFid := 0#16, decLen := 0#16 } :
        State).enterPhase .failed := by
  simp [timeoutEvent, h]

theorem timeoutEvent_moves (s : State) : ReflTransGen DecMove s (timeoutEvent s) := by
  cases ha : s.decState.active with
  | false => rw [timeoutEvent_inactive ha]
  | true => exact .single (.timeout ha)

theorem elapseEvent_moves (d : Nat) (s : State) : ReflTransGen DecMove s (elapseEvent d s) := by
  unfold elapseEvent
  split
  next t deadline ht hd =>
    have htick : DecMove s { s with timer := some (t + d) } := .tick ht d
    split
    · exact .head htick (timeoutEvent_moves _)
    · exact .single htick
  next => rfl

/-- What one event can do: a command's effect, Reset, or a run of decoder moves. -/
theorem handle_cases {e : Event} {s t : State} (h : handle e s = .next t) :
    (∃ w, e = .cmd w ∧ CmdEffect s (opField w) t) ∨ (e = .reset ∧ t = resetEvent s) ∨
      ReflTransGen DecMove s t := by
  cases e with
  | cmd w => exact .inl ⟨w, rfl, cmdEffect_of_handle h⟩
  | wire bs =>
    rw [handle, runWire_eq] at h
    cases h
    exact .inr (.inr (rxBytes_moves bs s))
  | arrive b => cases h; exact .inr (.inr (.single (.arrive b)))
  | rx => cases h; exact .inr (.inr (rxEvent_moves s))
  | timeout => cases h; exact .inr (.inr (timeoutEvent_moves s))
  | elapse d => cases h; exact .inr (.inr (elapseEvent_moves d s))
  | reset => cases h; exact .inr (.inl ⟨rfl, rfl⟩)

/-! ### The frame of the decoder's moves -/

theorem outsideDecUnchanged_refl (s : State) : Spec.OutsideDecUnchanged s s := by
  simp [Spec.OutsideDecUnchanged]

theorem outsideDecUnchanged_trans {s t u : State} (h : Spec.OutsideDecUnchanged s t)
    (h' : Spec.OutsideDecUnchanged t u) : Spec.OutsideDecUnchanged s u := by
  simp_all [Spec.OutsideDecUnchanged]

/-- A byte through the decoder changes nothing outside DEC (R165 to R169). -/
theorem rxByte_outsideDecUnchanged (b : Byte) (s : State) : Spec.OutsideDecUnchanged s (rxByte b s) := by
  obtain ⟨-, h⟩ | ⟨-, -, h⟩ | ⟨-, -, h⟩ | ⟨-, -, h⟩ | ⟨-, -, h⟩ | ⟨-, -, h⟩ | ⟨-, -, h⟩ | ⟨-, -, h⟩ :=
    rxByte_cases b s
  all_goals
    rw [h]
    exact outsideDecUnchanged_refl s

theorem decMove_outsideDecUnchanged {s t : State} (h : DecMove s t) : Spec.OutsideDecUnchanged s t := by
  cases h with
  | arrive b => exact outsideDecUnchanged_refl s
  | take ha hx => exact rxByte_outsideDecUnchanged _ { s with rx := _ }
  | timeout ha => rw [timeoutEvent_active ha]; exact outsideDecUnchanged_refl s
  | tick ht d => exact outsideDecUnchanged_refl s

/-- Decoder moves change nothing outside DEC. -/
theorem decMoves_outsideDecUnchanged {s t : State} (h : ReflTransGen DecMove s t) :
    Spec.OutsideDecUnchanged s t := by
  induction h with
  | refl => exact outsideDecUnchanged_refl s
  | tail _ hmove ih => exact outsideDecUnchanged_trans ih (decMove_outsideDecUnchanged hmove)

end Sys2Proof.Machine
end

section
/-!
PROOFS. The invariant of the registers: it holds at reset, and every command effect, Reset and every decoder move
keep it.
-/

namespace Sys2Proof.Machine

open Relation

variable {s : State}

/-- The invariant holds at reset. -/
theorem inv_reset : Inv State.reset where
  enc := by decide
  header := by decide
  fields := by decide
  body := by decide
  result := by decide
  phase := by decide
  rcf := by decide
  ill := by decide

/-- Settles O55: ENC is idle at reset, so its invariant over TX asks nothing. -/
theorem invariantHoldsAtReset : Obligations.InvariantHoldsAtReset := by
  unfold Obligations.InvariantHoldsAtReset
  exact ⟨inv_reset, fun hbusy => by simp [State.reset] at hbusy⟩

/-- The payload buffer is in canonical form in every good state (log 7). -/
theorem Inv.payload_wf (h : Inv s) : Memory.wf s.decPayload := h.body.2.2.2

/-! ### Commands -/

/-- Every effect of a command word keeps the invariant. -/
theorem inv_cmdEffect {op : Byte} {t : State} (h : Inv s) (he : CmdEffect s op t) : Inv t := by
  cases he with
  | rejected c hc => exact { h with ill := by simp [IllOk, State.raiseIllegal, hc] }
  | nop => exact h
  | crcClr => exact { h with }
  | crcByte b => exact { h with }
  | encWhole fid => exact { h with enc := by simp [EncRegistersOk] }
  | encOpen fid len hop hb hl => exact { h with enc := by simp [EncRegistersOk, hl] }
  | encLast b hop hb hr => exact { h with enc := by simp [EncRegistersOk] }
  | encMore b hop hb hr =>
    obtain ⟨hbusy, hle⟩ := h.enc
    have hne : s.encRemain ≠ 0#16 := hbusy.mp hb
    refine { h with enc := ⟨by simp; bv_omega, ?_⟩ }
    show (s.encRemain - 1#16).toNat ≤ s.encLen.toNat
    bv_omega
  | encRc hop hb => exact { h with enc := by simp [EncRegistersOk, hb] }
  | decStart fid =>
    exact
      { h with
        header := by simp [DecHeaderOk]
        fields := by simp [DecFieldsOk]
        body := by simpa [DecBodyOk] using h.payload_wf
        result := by simp [DecResultOk]
        phase := by simp [DecPhaseOk, DecState.active] }
  | rcSet index value => exact { h with }
  | rcLoadBegin => exact { h with rcf := by simp [RcfOk] }
  | rcLoadStage value hop hl hc =>
    refine { h with rcf := ⟨?_, by simp [hl]⟩ }
    show (BitVec.ofNat 5 (s.rcLcnt.toNat + 1)).toNat ≤ 16
    rw [BitVec.toNat_ofNat]
    omega
  | rcLoadDrop => exact h
  | rcLoadEnd => exact { h with rcf := by simp [RcfOk] }

/-! ### Bytes through the decoder -/

theorem take_three_toList (v : Vector Byte 8) : v.toList.take 3 = [v[0], v[1], v[2]] := by
  apply List.ext_getElem
  · simp
  · intro i hi _
    match i with
    | 0 | 1 | 2 => simp
    | _ + 3 => simp at hi

/-- A header byte at position 3 or later leaves the preamble as it is (R32). -/
theorem take_three_setIfInBounds {v : Vector Byte 8} {i : Nat} (h : 3 ≤ i) (b : Byte) :
    (v.setIfInBounds i b).toList.take 3 = v.toList.take 3 := by
  simp [List.take_set_of_le h]

/-- A scanned byte: the tail keeps at most 64 bytes (R31). -/
theorem inv_scanned (h : Inv s) (b : Byte) : Inv { s with decTail := lastN (s.decTail ++ [b]) tailCap } :=
  { h with header := ⟨length_lastN_le _ _, h.header.2⟩ }

/-- The preamble's last byte (R166). -/
theorem inv_preambleFound (h : Inv s) (hs : s.decState = .scanning) : Inv s.preambleFound where
  enc := h.enc
  header := by simp [DecHeaderOk, State.preambleFound, responsePreamble, take_three_toList]
  fields := by simpa [DecFieldsOk, State.preambleFound, hs] using h.fields
  body := by simpa [DecBodyOk, State.preambleFound, hs] using h.body
  result := by simpa [DecResultOk, State.preambleFound, hs] using h.result
  phase := by simpa [DecPhaseOk, State.preambleFound, hs, DecState.active] using h.phase.1
  rcf := h.rcf
  ill := h.ill

/-- A header byte that is not the last (R167). -/
theorem inv_headerByte (h : Inv s) (hs : s.decState = .headerRead) (hc : s.decHcnt ≠ 7#4) (b : Byte) :
    Inv { s with decHdr := s.decHdr.setIfInBounds s.decHcnt.toNat b, decHcnt := s.decHcnt + 1#4 } := by
  obtain ⟨htail, hread, -⟩ := h.header
  obtain ⟨hge, hle, hpre⟩ := hread hs
  refine
    { h with
      header := ⟨htail, fun _ => ⟨?_, ?_, ?_⟩, by simp [hs]⟩
      result := ⟨by simp [hs], h.result.2⟩ }
  · show 3 ≤ (s.decHcnt + 1#4).toNat
    bv_omega
  · show (s.decHcnt + 1#4).toNat ≤ 7
    bv_omega
  · exact (take_three_setIfInBounds hge b).trans hpre

/-- The header's last byte (R167). -/
theorem inv_headerDone (h : Inv s) (hs : s.decState = .headerRead) (b : Byte) :
    Inv ({ s with decHdr := s.decHdr.set 7 b, decHcnt := 8#4 } : State).headerDone := by
  obtain ⟨htail, hread, -⟩ := h.header
  obtain ⟨-, -, hpre⟩ := hread hs
  rw [take_three_toList] at hpre
  exact
    { enc := h.enc
      header := by simpa [DecHeaderOk, State.headerDone, take_three_toList] using ⟨htail, hpre⟩
      fields := by simp [DecFieldsOk, State.headerDone]
      body := by simpa [DecBodyOk, State.headerDone] using h.payload_wf
      result := by simpa [DecResultOk, State.headerDone, hs] using h.result
      phase := by simpa [DecPhaseOk, State.headerDone, hs, DecState.active] using h.phase.1
      rcf := h.rcf
      ill := h.ill }

/-- A payload byte (R168). -/
theorem inv_rxPayload (h : Inv s) (hs : s.decState = .headerComplete) (hlt : s.decPcnt < s.decLen) (b : Byte) :
    Inv (rxPayload b s) := by
  have hcap : s.decPcnt.toNat < payloadCap := by
    show s.decPcnt.toNat < 65535
    bv_omega
  refine
    { h with
      body := ⟨fun _ => ?_, by simp [rxPayload, hs], by simp [rxPayload, hs], Memory.write_wf b h.payload_wf hcap⟩
      result := ⟨by simp [rxPayload, hs], h.result.2⟩ }
  show (s.decPcnt + 1#16).toNat ≤ s.decLen.toNat
  bv_omega

/-- The checksum byte (R169). -/
theorem inv_rxChecksum (h : Inv s) (hs : s.decState = .headerComplete) (heq : s.decPcnt = s.decLen) (b : Byte) :
    Inv (rxChecksum b s) where
  enc := h.enc
  header := by simpa [DecHeaderOk, rxChecksum, hs] using h.header
  fields := by simp [DecFieldsOk, rxChecksum]
  body := by simpa [DecBodyOk, rxChecksum, heq] using h.payload_wf
  result := ⟨fun _ => ⟨rfl, rfl, rfl, rfl⟩, by simp [rxChecksum]⟩
  phase := by simpa [DecPhaseOk, rxChecksum, hs, DecState.active] using h.phase.1
  rcf := h.rcf
  ill := h.ill

/-- Every byte through the decoder keeps the invariant (R165 to R169). -/
theorem inv_rxByte (h : Inv s) (b : Byte) : Inv (rxByte b s) := by
  obtain ⟨-, hb⟩ | ⟨-, -, hb⟩ | ⟨hs, -, hb⟩ | ⟨hs, hc, hb⟩ | ⟨hs, -, hb⟩ | ⟨hs, hlt, hb⟩ | ⟨hs, heq, hb⟩ |
    ⟨-, -, hb⟩ := rxByte_cases b s <;> rw [hb]
  · exact h
  · exact inv_scanned h b
  · exact inv_preambleFound (inv_scanned h b) hs
  · exact inv_headerByte h hs hc b
  · exact inv_headerDone h hs b
  · exact inv_rxPayload h hs hlt b
  · exact inv_rxChecksum h hs heq b
  · exact h

/-! ### The other moves and Reset -/

/-- Timeout in an active phase (R176). -/
theorem inv_timeoutEvent (h : Inv s) (ha : s.decState.active = true) : Inv (timeoutEvent s) := by
  have hb : s.decState ≠ .bodyComplete := by
    intro hs
    simp [hs, DecState.active] at ha
  have hp : s.decState.failPhase ≠ .none := by
    cases hs : s.decState <;> simp_all [DecState.active, DecState.failPhase]
  rw [timeoutEvent_active ha]
  exact
    { h with
      header := by simpa [DecHeaderOk] using h.header.1
      fields := by simp [DecFieldsOk]
      body := by simpa [DecBodyOk] using h.payload_wf
      result := by simpa [DecResultOk] using h.result.2 hb
      phase := by simp [DecPhaseOk, hp, DecState.active] }

theorem inv_decMove {t : State} (h : Inv s) (hm : DecMove s t) : Inv t := by
  cases hm with
  | arrive b => exact { h with }
  | @take b rest ha hx => exact inv_rxByte (s := { s with rx := rest }) { h with } b
  | timeout ha => exact inv_timeoutEvent h ha
  | tick ht d => exact { h with phase := by simpa [DecPhaseOk, ht] using h.phase }

theorem inv_decMoves {t : State} (h : Inv s) (hm : ReflTransGen DecMove s t) : Inv t := by
  induction hm with
  | refl => exact h
  | tail _ hmove ih => exact inv_decMove ih hmove

/-- Every event keeps the invariant. -/
theorem inv_handle {e : Event} {t : State} (h : Inv s) (ht : handle e s = .next t) : Inv t := by
  obtain ⟨w, -, he⟩ | ⟨-, rfl⟩ | hm := handle_cases ht
  · exact inv_cmdEffect h he
  · exact { inv_reset with }
  · exact inv_decMoves h hm

/-- Settles O56: a step is an event or nothing, and every event has a next state that keeps the invariant. -/
theorem stepKeepsInvariant : Obligations.StepKeepsInvariant := by
  unfold Obligations.StepKeepsInvariant
  intro s h
  cases hev : s.events with
  | nil => exact ⟨s, step_of_events_nil hev, h⟩
  | cons e rest =>
    have hrest : Inv { s with events := rest } := { h with }
    obtain ⟨t, ht⟩ := handle_next e { s with events := rest }
    exact ⟨t, (step_of_events_cons hev).trans ht, inv_handle hrest ht⟩

end Sys2Proof.Machine
end

section
/-!
PROOFS. Which events append to TX (10_state.md R43) and which change a status flag (R47).
-/

namespace Sys2Proof.Machine

open Relation

variable {s t : State}

/-! ### TX (R43, R61) -/

/-- A command appends to TX only if it is one of ENC's three. -/
theorem cmdEffect_tx {op : Byte} (he : CmdEffect s op t) :
    ∃ bs : List Byte, t.tx = s.tx ++ bs ∧ (bs ≠ [] → op ∈ [Opcode.encStart, Opcode.encData, Opcode.encRc]) := by
  cases he with
  | encWhole fid hop | encOpen fid len hop | encLast b hop | encMore b hop | encRc hop =>
    exact ⟨_, rfl, fun _ => by simp [hop]⟩
  | _ => exact ⟨[], by simp⟩

/-- The decoder's moves leave TX as it is. -/
theorem decMoves_tx (hm : ReflTransGen DecMove s t) : t.tx = s.tx := by
  have h := decMoves_outsideDecUnchanged hm
  simp_all [Spec.OutsideDecUnchanged]

/-- Settles O22: Reset and the decoder's moves leave TX as it is. -/
theorem onlyEncoderAppendsToTx : Obligations.OnlyEncoderAppendsToTx := by
  unfold Obligations.OnlyEncoderAppendsToTx
  intro e s t ht
  obtain ⟨w, rfl, he⟩ | ⟨-, rfl⟩ | hm := handle_cases ht
  · obtain ⟨bs, htx, hop⟩ := cmdEffect_tx he
    exact ⟨bs, htx, fun hne => ⟨w, rfl, hop hne⟩⟩
  · exact ⟨[], by simp [resetEvent]⟩
  · exact ⟨[], by simp [decMoves_tx hm]⟩

/-! ### ENC_BUSY (R47) -/

/-- A command that sets ENC_BUSY has ENC_START's OP. -/
theorem cmdEffect_encBusy_set {op : Byte} (he : CmdEffect s op t) (hs : s.encBusy = false) (ht : t.encBusy = true) :
    op = Opcode.encStart := by
  cases he with
  | encOpen fid len hop => exact hop
  | _ => simp_all

/-- A command that clears ENC_BUSY is the last ENC_DATA. -/
theorem cmdEffect_encBusy_cleared {op : Byte} (he : CmdEffect s op t) (hs : s.encBusy = true)
    (ht : t.encBusy = false) : op = Opcode.encData ∧ s.encRemain = 1#16 := by
  cases he with
  | encLast b hop _ hr => exact ⟨hop, hr⟩
  | _ => simp_all

/-- A field of ARG is the field of the word at the same bits (R95). -/
theorem extract_argField (w : CmdWord) (k l : Nat) (h : k + l ≤ 32) :
    (argField w).extractLsb' k l = w.extractLsb' k l := by
  rw [← extract_append_low (opField w) (argField w) k l h]
  exact congrArg (BitVec.extractLsb' k l) (commandWord_fields w)

/-- Every word with ENC_START's OP runs ENC_START with the fields at its bits (R96). -/
theorem handle_encStart {w : CmdWord} (hop : opField w = Opcode.encStart) (s : State) :
    handle (.cmd w) s = execEncStart (w.extractLsb' 0 16) (w.extractLsb' 16 16) s := by
  have hd : decodeCommand w = .ok (.encStart (w.extractLsb' 0 16) (w.extractLsb' 16 16)) := by
    rw [← commandWord_fields w, hop, decodeCommand_encStart, formatFL, extract_argField _ _ _ (by decide),
      extract_argField _ _ _ (by decide), ← hop, commandWord_fields]
  exact runCommand_ok hd s

/-- A command word that sets ENC_BUSY is an ENC_START with len > 0. -/
theorem handle_encBusy_set {w : CmdWord} (h : handle (.cmd w) s = .next t) (hs : s.encBusy = false)
    (ht : t.encBusy = true) : opField w = Opcode.encStart ∧ w.extractLsb' 16 16 ≠ 0#16 := by
  have hop := cmdEffect_encBusy_set (cmdEffect_of_handle h) hs ht
  refine ⟨hop, fun hlen => ?_⟩
  rw [handle_encStart hop, hlen, execEncStart_whole _ hs] at h
  cases h
  simp at ht

/-! ### RC_LOADING and ILL (R47) -/

/-- A command that sets RC_LOADING is RC_LOAD_BEGIN. -/
theorem cmdEffect_rcLoading_set {op : Byte} (he : CmdEffect s op t) (hs : s.rcLoading = false)
    (ht : t.rcLoading = true) : op = Opcode.rcLoadBegin := by
  cases he with
  | rcLoadBegin hop => exact hop
  | _ => simp_all

/-- A command that clears RC_LOADING is RC_LOAD_END. -/
theorem cmdEffect_rcLoading_cleared {op : Byte} (he : CmdEffect s op t) (hs : s.rcLoading = true)
    (ht : t.rcLoading = false) : op = Opcode.rcLoadEnd := by
  cases he with
  | rcLoadEnd hop => exact hop
  | _ => simp_all

/-- A command that sets ILL is a rejected one. -/
theorem cmdEffect_ill_set {op : Byte} (he : CmdEffect s op t) (hs : s.ill = false) (ht : t.ill = true) :
    ∃ c, t = s.raiseIllegal c op := by
  cases he with
  | rejected c => exact ⟨c, rfl⟩
  | _ => simp_all

/-- No command clears ILL (R42, R239). -/
theorem cmdEffect_ill_kept {op : Byte} (he : CmdEffect s op t) (hs : s.ill = true) : t.ill = true := by
  cases he with
  | rejected c => rfl
  | _ => exact hs

/-- The decoder's moves leave ENC_BUSY, RC_LOADING and ILL as they are. -/
theorem decMoves_flags (hm : ReflTransGen DecMove s t) :
    t.encBusy = s.encBusy ∧ t.rcLoading = s.rcLoading ∧ t.ill = s.ill := by
  have h := decMoves_outsideDecUnchanged hm
  simp_all [Spec.OutsideDecUnchanged]

/-! ### The result flags (R36, R47) -/

/-- DEC_CRC_OK, DEC_FID_MATCH and DEC_STATUS_OK are as before. -/
def ResultFlagsKept (s t : State) : Prop :=
  t.decCrcOk = s.decCrcOk ∧ t.decFidMatch = s.decFidMatch ∧ t.decStatusOk = s.decStatusOk

theorem ResultFlagsKept.refl (s : State) : ResultFlagsKept s s := ⟨rfl, rfl, rfl⟩

theorem ResultFlagsKept.trans {u : State} (h : ResultFlagsKept s t) (h' : ResultFlagsKept t u) :
    ResultFlagsKept s u := by
  simp_all [ResultFlagsKept]

/-- The inactive states of R160 are those without an active phase. -/
theorem decInactive_iff : Spec.DecInactive s ↔ s.decState.active = false := by
  cases hs : s.decState <;> simp [Spec.DecInactive, hs, DecState.active]

/-- A command that changes a result flag is DEC_START. -/
theorem cmdEffect_resultFlags {op : Byte} (he : CmdEffect s op t) :
    op = Opcode.decStart ∨ ResultFlagsKept s t := by
  cases he with
  | decStart fid hop => exact .inl hop
  | _ => exact .inr (ResultFlagsKept.refl s)

/-- A byte through the decoder keeps the result flags unless it completes the body (R169). -/
theorem rxByte_resultFlags (b : Byte) (s : State) :
    ResultFlagsKept s (rxByte b s) ∨ (rxByte b s).decState = .bodyComplete := by
  obtain ⟨-, h⟩ | ⟨-, -, h⟩ | ⟨-, -, h⟩ | ⟨-, -, h⟩ | ⟨-, -, h⟩ | ⟨-, -, h⟩ | ⟨-, -, h⟩ | ⟨-, -, h⟩ :=
    rxByte_cases b s <;> rw [h]
  iterate 6 exact .inl (ResultFlagsKept.refl s)
  · exact .inr rfl
  · exact .inl (ResultFlagsKept.refl s)

/-- A decoder move keeps the result flags unless it completes the body. -/
theorem decMove_resultFlags (hm : DecMove s t) : ResultFlagsKept s t ∨ t.decState = .bodyComplete := by
  cases hm with
  | @take b rest ha hx => exact rxByte_resultFlags b { s with rx := rest }
  | timeout ha => rw [timeoutEvent_active ha]; exact .inl (ResultFlagsKept.refl s)
  | _ => exact .inl (ResultFlagsKept.refl s)

/-- In an inactive state no move changes DEC_STATE or a result flag (R165, R176). -/
theorem decMove_inactive (hm : DecMove s t) (hi : s.decState.active = false) :
    t.decState = s.decState ∧ ResultFlagsKept s t := by
  cases hm with
  | take ha | timeout ha => simp [hi] at ha
  | _ => exact ⟨rfl, ResultFlagsKept.refl s⟩

theorem decMoves_inactive (hm : ReflTransGen DecMove s t) (hi : s.decState.active = false) :
    t.decState = s.decState ∧ ResultFlagsKept s t := by
  induction hm with
  | refl => exact ⟨rfl, ResultFlagsKept.refl s⟩
  | tail _ hmove ih =>
    obtain ⟨hstate, hflags⟩ := ih
    obtain ⟨hstate', hflags'⟩ := decMove_inactive hmove (hstate ▸ hi)
    exact ⟨hstate'.trans hstate, hflags.trans hflags'⟩

/-- Decoder moves keep the result flags unless they complete the body: once it is complete, DEC_STATE stays. -/
theorem decMoves_resultFlags (hm : ReflTransGen DecMove s t) :
    ResultFlagsKept s t ∨ t.decState = .bodyComplete := by
  induction hm with
  | refl => exact .inl (ResultFlagsKept.refl s)
  | tail _ hmove ih =>
    obtain hkept | hdone := ih
    · exact (decMove_resultFlags hmove).imp_left hkept.trans
    · obtain ⟨hstate, -⟩ := decMove_inactive hmove (by simp [hdone, DecState.active])
      exact .inr (hstate.trans hdone)

/-- Decoder moves that change a result flag start in an active phase and end in BodyComplete. -/
theorem decMoves_resultFlags_changed (hm : ReflTransGen DecMove s t) (hc : ¬ ResultFlagsKept s t) :
    ¬ Spec.DecInactive s ∧ t.decState = .bodyComplete := by
  refine ⟨fun hi => ?_, (decMoves_resultFlags hm).resolve_left hc⟩
  obtain ⟨-, hkept⟩ := decMoves_inactive hm (decInactive_iff.mp hi)
  exact hc hkept

/-- Settles O51: one row of R47's table after another, by what the event can do. -/
theorem statusFlagsLifetime : Obligations.StatusFlagsLifetime := by
  unfold Obligations.StatusFlagsLifetime
  intro e s t h
  have hchanged : t.decCrcOk ≠ s.decCrcOk ∨ t.decFidMatch ≠ s.decFidMatch ∨ t.decStatusOk ≠ s.decStatusOk →
      ¬ ResultFlagsKept s t := by
    simp only [ResultFlagsKept]
    tauto
  obtain ⟨w, rfl, he⟩ | ⟨rfl, rfl⟩ | hm := handle_cases h
  · refine ⟨fun hs ht => ⟨w, rfl, handle_encBusy_set h hs ht⟩,
      fun hs ht => .inr ⟨w, rfl, cmdEffect_encBusy_cleared he hs ht⟩,
      fun hc => .inr (.inl ⟨w, rfl, (cmdEffect_resultFlags he).resolve_right (hchanged hc)⟩),
      fun hs ht => ⟨w, rfl, cmdEffect_rcLoading_set he hs ht⟩,
      fun hs ht => .inr ⟨w, rfl, cmdEffect_rcLoading_cleared he hs ht⟩, fun hs ht => ?_, fun hs ht => ?_⟩
    · obtain ⟨c, hc⟩ := cmdEffect_ill_set he hs ht
      exact ⟨w, c, rfl, hc⟩
    · simp [cmdEffect_ill_kept he hs] at ht
  · simp [resetEvent, State.reset]
  · obtain ⟨hbusy, hloading, hill⟩ := decMoves_flags hm
    exact ⟨fun hs ht => by simp [hbusy, hs] at ht, fun hs ht => by simp [hbusy, hs] at ht,
      fun hc => .inr (.inr (decMoves_resultFlags_changed hm (hchanged hc))),
      fun hs ht => by simp [hloading, hs] at ht, fun hs ht => by simp [hloading, hs] at ht,
      fun hs ht => by simp [hill, hs] at ht, fun hs ht => by simp [hill, hs] at ht⟩

end Sys2Proof.Machine
end

section
/-!
PROOFS. STATUS, the output ports and DEC_CAUSE as functions of the state (10_state.md R38, R45, R46).
-/

namespace Sys2Proof.Machine

/-- Outside Failed and BodyComplete there is no cause (R38). -/
theorem decCause_eq_zero {s : State} (hf : s.decState ≠ .failed) (hb : s.decState ≠ .bodyComplete) :
    s.decCause = 0#2 := by
  cases hs : s.decState <;> simp_all [State.decCause]

/-- In BodyComplete the cause is the checksum's, before the function id's (R38, R237). -/
theorem decCause_bodyComplete {s : State} (hs : s.decState = .bodyComplete) :
    s.decCause = if s.decCrcOk = false then 2#2 else if s.decFidMatch = false then 3#2 else 0#2 := by
  simp [State.decCause, hs]

/-- Settles O40, by the case of DEC_STATE each clause names. -/
theorem decCauseSummary : Obligations.DecCauseSummary := by
  unfold Obligations.DecCauseSummary
  intro s
  refine ⟨fun hs => ?_, fun hs hok => ?_, fun hs hok hfid => ?_, fun hs hok hfid => ?_, decCause_eq_zero⟩
  · simp [State.decCause, hs]
  · simp [decCause_bodyComplete hs, hok]
  · simp [decCause_bodyComplete hs, hok, hfid]
  · simp [decCause_bodyComplete hs, hok, hfid]

/-- The payload port reads the buffer exactly in BodyComplete below DEC_LEN (R46). -/
theorem portDecPayload_inside {s : State} {i : Nat} (hs : s.decState = .bodyComplete) (hi : i < s.decLen.toNat) :
    s.portDecPayload i = Memory.read s.decPayload i := by
  rw [State.portDecPayload, if_pos ⟨hs, hi⟩]

/-- Outside BodyComplete and at DEC_LEN and above the payload port reads 0x00 (R46). -/
theorem portDecPayload_outside {s : State} {i : Nat} (h : s.decState ≠ .bodyComplete ∨ s.decLen.toNat ≤ i) :
    s.portDecPayload i = 0x00#8 := by
  rw [State.portDecPayload, if_neg]
  rintro ⟨hs, hi⟩
  rcases h with h | h
  · exact h hs
  · omega

/-- Settles O50: every port but the payload's is its register by definition. -/
theorem outputPortsReadRegisters : Obligations.OutputPortsReadRegisters := by
  unfold Obligations.OutputPortsReadRegisters
  intro s
  exact ⟨rfl, rfl, rfl, rfl, rfl, rfl, rfl, rfl, rfl, rfl, rfl, rfl, fun _ => portDecPayload_inside,
    fun _ => portDecPayload_outside, fun _ _ => rfl, rfl⟩

/-- Settles O49: each field is cut out of the concatenation that STATUS is. -/
theorem statusWordFields : Obligations.StatusWordFields := by
  unfold Obligations.StatusWordFields
  intro s
  refine ⟨?_, ?_, ?_, ?_, ?_, ?_, ?_, ?_, ?_, ?_, ?_, by decide⟩
  all_goals
    simp (disch := omega) only [State.status, extract_append_high, extract_append_low]
    exact BitVec.extractLsb'_eq_self

end Sys2Proof.Machine
end

section
/-!
PROOFS. A schedule runs in its own order (R12, R71; log 1): an event neither reads the schedule nor changes it, so it
does the same whatever events follow it.
-/

namespace Sys2Proof.Machine

/-- With the timer disarmed, or no deadline to reach, passing time does nothing (R241). -/
theorem elapseEvent_disarmed {s : State} {d : Nat} (h : s.timer = none ∨ s.decState.deadline = none) :
    elapseEvent d s = s := by
  unfold elapseEvent
  split
  next ht hd => simp [ht, hd] at h
  next => rfl

/-- An armed timer advances, and at the phase's deadline the Timeout event happens (R177, R241). -/
theorem elapseEvent_armed {s : State} {d t deadline : Nat} (ht : s.timer = some t)
    (hd : s.decState.deadline = some deadline) :
    elapseEvent d s =
      if deadline ≤ t + d then timeoutEvent { s with timer := some (t + d) } else { s with timer := some (t + d) } := by
  simp [elapseEvent, ht, hd]

/-! ### Another schedule in the same state -/

/-- The state with other events still to come. -/
def State.withEvents (s : State) (es : List Event) : State := { s with events := es }

/-- An outcome with its next state's schedule replaced. -/
def outcomeWithEvents (es : List Event) (o : Host.Outcome State Fault Refusal) : Host.Outcome State Fault Refusal :=
  match o with
  | .next t => .next (t.withEvents es)
  | .fault r => .fault r
  | .refused r => .refused r

section

variable (s : State) (es : List Event)

/-! ### The decoder's events -/

/-- Replacing the schedule goes into both branches. -/
theorem withEvents_ite (p : Prop) [Decidable p] (t u : State) :
    (if p then t else u).withEvents es = if p then t.withEvents es else u.withEvents es :=
  apply_ite (State.withEvents · es) p t u

theorem rxScan_withEvents (b : Byte) : rxScan b (s.withEvents es) = (rxScan b s).withEvents es := by
  rw [rxScan, rxScan, withEvents_ite]
  rfl

theorem rxHeader_withEvents (b : Byte) : rxHeader b (s.withEvents es) = (rxHeader b s).withEvents es := by
  rw [rxHeader, rxHeader, withEvents_ite]
  rfl

theorem rxBody_withEvents (b : Byte) : rxBody b (s.withEvents es) = (rxBody b s).withEvents es := by
  rw [rxBody, rxBody, withEvents_ite, withEvents_ite]
  rfl

theorem rxByte_withEvents (b : Byte) : rxByte b (s.withEvents es) = (rxByte b s).withEvents es := by
  rw [rxByte, rxByte, show (s.withEvents es).decState = s.decState from rfl]
  cases s.decState with
  | scanning => exact rxScan_withEvents s es b
  | headerRead => exact rxHeader_withEvents s es b
  | headerComplete => exact rxBody_withEvents s es b
  | idle | bodyComplete | failed => rfl

theorem rxEvent_withEvents : rxEvent (s.withEvents es) = (rxEvent s).withEvents es := by
  cases ha : s.decState.active with
  | false => rw [rxEvent_inactive ha, rxEvent_inactive (s := s.withEvents es) ha]
  | true =>
    cases hx : s.rx with
    | nil => rw [rxEvent_empty hx, rxEvent_empty (s := s.withEvents es) hx]
    | cons b rest =>
      rw [rxEvent_cons ha hx, rxEvent_cons (s := s.withEvents es) ha hx]
      exact rxByte_withEvents { s with rx := rest } es b

theorem rxBytes_withEvents (bs : List Byte) : rxBytes bs (s.withEvents es) = (rxBytes bs s).withEvents es := by
  induction bs generalizing s with
  | nil => rfl
  | cons b rest ih =>
    rw [rxBytes_cons, rxBytes_cons, ← ih, ← rxEvent_withEvents]
    rfl

theorem timeoutEvent_withEvents : timeoutEvent (s.withEvents es) = (timeoutEvent s).withEvents es := by
  cases ha : s.decState.active with
  | false => rw [timeoutEvent_inactive ha, timeoutEvent_inactive (s := s.withEvents es) ha]
  | true => rw [timeoutEvent_active ha, timeoutEvent_active (s := s.withEvents es) ha]; rfl

theorem elapseEvent_withEvents (d : Nat) : elapseEvent d (s.withEvents es) = (elapseEvent d s).withEvents es := by
  by_cases h : s.timer = none ∨ s.decState.deadline = none
  · rw [elapseEvent_disarmed h, elapseEvent_disarmed (s := s.withEvents es) h]
  · obtain ⟨ht, hd⟩ := not_or.mp h
    obtain ⟨t, ht⟩ := Option.ne_none_iff_exists'.mp ht
    obtain ⟨deadline, hd⟩ := Option.ne_none_iff_exists'.mp hd
    rw [elapseEvent_armed ht hd, elapseEvent_armed (s := s.withEvents es) ht hd, withEvents_ite,
      ← timeoutEvent_withEvents]
    rfl

/-! ### Every event -/

theorem outcomeWithEvents_next : outcomeWithEvents es (.next s) = .next (s.withEvents es) := rfl

theorem outcomeWithEvents_ite (p : Prop) [Decidable p] (o o' : Host.Outcome State Fault Refusal) :
    outcomeWithEvents es (if p then o else o') = if p then outcomeWithEvents es o else outcomeWithEvents es o' :=
  apply_ite (outcomeWithEvents es) p o o'

/-- No instruction reads or changes the schedule. -/
theorem exec_withEvents (i : Instr) : exec i (s.withEvents es) = outcomeWithEvents es (exec i s) := by
  cases i with
  | nop | crcClr | crcByte | rcSet => rfl
  | encStart fid len =>
    simp only [exec, execEncStart, outcomeWithEvents_ite, outcomeWithEvents_next, State.withEvents, State.emit]
    rfl
  | encData b => simp only [exec, execEncData, outcomeWithEvents_ite]; rfl
  | encRc =>
    simp only [exec, execEncRc, outcomeWithEvents_ite, outcomeWithEvents_next, State.withEvents, State.emit,
      State.rcSerialize]
    rfl
  | decStart fid => simp only [exec, execDecStart, outcomeWithEvents_ite]; rfl
  | rcLoadBegin => simp only [exec, execRcLoadBegin, outcomeWithEvents_ite]; rfl
  | rcLoadVal value => simp only [exec, execRcLoadVal, outcomeWithEvents_ite]; rfl
  | rcLoadEnd => simp only [exec, execRcLoadEnd, outcomeWithEvents_ite]; rfl
  | _ => exact congrArg Host.Outcome.next (rxBytes_withEvents s es _)

/-- An event does on any schedule what it does on this one, and leaves the schedule as it is. -/
theorem handle_withEvents (e : Event) : handle e (s.withEvents es) = outcomeWithEvents es (handle e s) := by
  cases e with
  | cmd w =>
    rw [handle, handle]
    cases hd : decodeCommand w with
    | ok i => rw [runCommand_ok hd, runCommand_ok hd, exec_withEvents]
    | error r => rw [runCommand_error hd, runCommand_error hd]; rfl
  | wire bs => rw [handle, handle, runWire_eq, runWire_eq, rxBytes_withEvents]; rfl
  | arrive b => rfl
  | rx => exact congrArg Host.Outcome.next (rxEvent_withEvents s es)
  | timeout => exact congrArg Host.Outcome.next (timeoutEvent_withEvents s es)
  | elapse d => exact congrArg Host.Outcome.next (elapseEvent_withEvents s es d)
  | reset => rfl

end

/-! ### Running the schedule (R71) -/

theorem handle_withEvents_next {e : Event} {s t : State} (h : handle e s = .next t) (es : List Event) :
    handle e (s.withEvents es) = .next (t.withEvents es) := by
  rw [handle_withEvents, h, outcomeWithEvents_next]

/-- A run whose first step answers a state goes on from that state. -/
theorem run_succ_of_step {M : Host.Core} {s t : M.State} (h : M.step s = .next t) (k : Nat) :
    M.run (k + 1) s = M.run k t := by
  rw [Host.Core.run, h]

/-- Settles O6, by induction on the events at the head of the schedule. -/
theorem scheduleRunsInOrder : Obligations.ScheduleRunsInOrder := by
  unfold Obligations.ScheduleRunsInOrder
  intro es rest s hs
  induction es generalizing s with
  | nil =>
    rw [List.nil_append] at hs
    rw [← hs]
    rfl
  | cons e es ih =>
    obtain ⟨t, ht⟩ := handle_next e s
    have hstep : step s = .next (t.withEvents (es ++ rest)) :=
      (step_of_events_cons hs).trans (handle_withEvents_next ht (es ++ rest))
    have htail : Sys2Proof.core.run es.length (t.withEvents (es ++ rest)) = handleAll es (t.withEvents rest) :=
      ih (t.withEvents (es ++ rest)) rfl
    have hhead : handleAll (e :: es) (s.withEvents rest) = handleAll es (t.withEvents rest) :=
      handleAll_cons_next (handle_withEvents_next ht rest) es
    exact (run_succ_of_step (M := Sys2Proof.core) hstep es.length).trans (htail.trans hhead.symm)

end Sys2Proof.Machine
end

section
/-!
PROOFS. Which events change the RC registers (R61), and which commands are idempotent (R69).
-/

namespace Sys2Proof.Machine

open Relation

variable {s t : State}

/-! ### RC (R61) -/

/-- A command changes RC only if it is RC_SET or RC_LOAD_END. -/
theorem cmdEffect_rc {op : Byte} (he : CmdEffect s op t) :
    op ∈ [Opcode.rcSet, Opcode.rcLoadEnd] ∨ t.rc = s.rc := by
  cases he with
  | rcSet _ _ hop | rcLoadEnd hop => exact .inl (by simp [hop])
  | _ => exact .inr rfl

/-- The decoder's moves leave RC as it is. -/
theorem decMoves_rc (hm : ReflTransGen DecMove s t) : t.rc = s.rc := by
  have h := decMoves_outsideDecUnchanged hm
  simp_all [Spec.OutsideDecUnchanged]

/-- Settles O47, by what the event can do. -/
theorem onlyRcfCommandsChangeRc : Obligations.OnlyRcfCommandsChangeRc := by
  unfold Obligations.OnlyRcfCommandsChangeRc
  intro e s t ht hne
  obtain ⟨w, rfl, he⟩ | ⟨rfl, -⟩ | hm := handle_cases ht
  · exact .inr ⟨w, rfl, (cmdEffect_rc he).resolve_right hne⟩
  · exact .inl rfl
  · exact absurd (decMoves_rc hm) hne

/-! ### A rejected command (R69, R234, R235) -/

/-- The states agree on the registers that R235's conditions read: ENC_BUSY, DEC_STATE and RC_LOADING. -/
structure SameConditions (s t : State) : Prop where
  encBusy : t.encBusy = s.encBusy
  decState : t.decState = s.decState
  rcLoading : t.rcLoading = s.rcLoading

/-- ILL, ILL_CAUSE and ILL_OP are as before. -/
structure IllKept (s t : State) : Prop where
  ill : t.ill = s.ill
  illCause : t.illCause = s.illCause
  illOp : t.illOp = s.illOp

theorem SameConditions.refl (s : State) : SameConditions s s := ⟨rfl, rfl, rfl⟩

theorem sameConditions_raiseIllegal (s : State) (c : IllCause) (op : Byte) :
    SameConditions s (s.raiseIllegal c op) := ⟨rfl, rfl, rfl⟩

/-- A state that a rejection can be, with the ILL registers of `s`, is `s`. -/
theorem raiseIllegal_eq_self {c : IllCause} {op : Byte} (h : IllKept s (s.raiseIllegal c op)) :
    s.raiseIllegal c op = s := by
  obtain ⟨hill, hcause, hop⟩ := h
  simp only [State.raiseIllegal] at *
  rw [hill, hcause, hop]

theorem decMoves_illKept (hm : ReflTransGen DecMove s t) : IllKept s t := by
  have h := decMoves_outsideDecUnchanged hm
  constructor <;> simp_all [Spec.OutsideDecUnchanged]

/-- An instruction is rejected in every state that agrees on the conditions, or keeps the ILL registers (R234, R235). -/
theorem exec_rejected_or_illKept (i : Instr) (s : State) :
    (∃ c op, ∀ u, SameConditions s u → exec i u = .next (u.raiseIllegal c op)) ∨
      ∃ t, exec i s = .next t ∧ IllKept s t := by
  cases i with
  | nop | crcClr | crcByte | rcSet => exact .inr ⟨_, rfl, rfl, rfl, rfl⟩
  | encStart fid len =>
    cases hb : s.encBusy with
    | true => exact .inl ⟨_, _, fun u hu => execEncStart_busy fid len (hu.encBusy.trans hb)⟩
    | false =>
      by_cases hl : len = 0#16
      · subst hl
        exact .inr ⟨_, execEncStart_whole fid hb, rfl, rfl, rfl⟩
      · exact .inr ⟨_, execEncStart_open fid hb hl, rfl, rfl, rfl⟩
  | encData b =>
    cases hb : s.encBusy with
    | true =>
      by_cases hr : s.encRemain = 1#16
      · exact .inr ⟨_, execEncData_last b hb hr, rfl, rfl, rfl⟩
      · exact .inr ⟨_, execEncData_more b hb hr, rfl, rfl, rfl⟩
    | false => exact .inl ⟨_, _, fun u hu => execEncData_idle b (hu.encBusy.trans hb)⟩
  | encRc =>
    cases hb : s.encBusy with
    | true => exact .inl ⟨_, _, fun u hu => execEncRc_busy (hu.encBusy.trans hb)⟩
    | false => exact .inr ⟨_, execEncRc_idle hb, rfl, rfl, rfl⟩
  | decStart fid =>
    cases ha : s.decState.active with
    | true => exact .inl ⟨_, _, fun u hu => execDecStart_active fid (hu.decState ▸ ha)⟩
    | false => exact .inr ⟨_, execDecStart_inactive fid ha, rfl, rfl, rfl⟩
  | rcLoadBegin =>
    cases hl : s.rcLoading with
    | true => exact .inl ⟨_, _, fun u hu => execRcLoadBegin_open (hu.rcLoading.trans hl)⟩
    | false => exact .inr ⟨_, execRcLoadBegin_closed hl, rfl, rfl, rfl⟩
  | rcLoadVal value =>
    cases hl : s.rcLoading with
    | true =>
      by_cases hc : s.rcLcnt.toNat < 16
      · exact .inr ⟨_, execRcLoadVal_stage value hl hc, rfl, rfl, rfl⟩
      · exact .inr ⟨_, execRcLoadVal_full value hl (by omega), rfl, rfl, rfl⟩
    | false => exact .inl ⟨_, _, fun u hu => execRcLoadVal_closed value (hu.rcLoading.trans hl)⟩
  | rcLoadEnd =>
    cases hl : s.rcLoading with
    | true => exact .inr ⟨_, execRcLoadEnd_open hl, rfl, rfl, rfl⟩
    | false => exact .inl ⟨_, _, fun u hu => execRcLoadEnd_closed (hu.rcLoading.trans hl)⟩
  | _ => exact .inr ⟨_, rfl, decMoves_illKept (rxBytes_moves _ s)⟩

/-- So does a command word: one with no command is rejected in every state (R98). -/
theorem runCommand_rejected_or_illKept (w : CmdWord) (s : State) :
    (∃ c op, ∀ u, SameConditions s u → runCommand w u = .next (u.raiseIllegal c op)) ∨
      ∃ t, runCommand w s = .next t ∧ IllKept s t := by
  cases hd : decodeCommand w with
  | error r => exact .inl ⟨_, _, fun u _ => runCommand_error hd u⟩
  | ok i =>
    simp only [runCommand_ok hd]
    exact exec_rejected_or_illKept i s

/-- A rejected command is rejected again in the same way: a rejection leaves the conditions as they are. -/
theorem runCommand_raiseIllegal {w : CmdWord} {c : IllCause} {op : Byte}
    (h : runCommand w s = .next (s.raiseIllegal c op)) :
    runCommand w (s.raiseIllegal c op) = .next (s.raiseIllegal c op) := by
  obtain ⟨c', op', hrej⟩ | ⟨t, ht, hkept⟩ := runCommand_rejected_or_illKept w s
  · rw [hrej s (.refl s)] at h
    injection h with h
    rw [← h, hrej _ (sameConditions_raiseIllegal s c' op')]
    rfl
  · rw [ht] at h
    injection h with h
    subst h
    rwa [raiseIllegal_eq_self hkept] at ht ⊢

/-! ### Idempotent commands (R69) -/

theorem rcWrite_rcWrite_same (s : State) (index : BitVec 4) (value : Half) :
    (s.rcWrite index value).rcWrite index value = s.rcWrite index value := by
  simp [State.rcWrite]

/-- An event that changes nothing in the state it leads to is idempotent. -/
theorem handleAll_twice {e : Event} (h : handle e s = .next t) (h' : handle e t = .next t) :
    handleAll [e, e] s = handle e s := by
  rw [handleAll_cons_next h, handleAll_cons_next h', h]
  rfl

/-- Settles O52: each of the commands changes nothing in the state it leads to. -/
theorem idempotentCommands : Obligations.IdempotentCommands := by
  unfold Obligations.IdempotentCommands
  intro w s hw
  obtain rfl | rfl | ⟨index, value, rfl⟩ | ⟨value, rfl, hl, hc⟩ | ⟨c, hrej⟩ := hw
  · have h (u : State) : handle (.cmd (Spec.word 0x00#8 0#32)) u = .next u := runCommand_nop 0#32 u
    exact handleAll_twice (h s) (h s)
  · have h (u : State) : handle (.cmd (Spec.word 0x01#8 0#32)) u = .next { u with crcAcc := 0x00#8 } :=
      runCommand_crcClr 0#32 u
    exact handleAll_twice (h s) (h _)
  · have h (u : State) : handle (.cmd (Spec.word 0x30#8 (0#12 ++ index ++ value))) u = .next (u.rcWrite index value) :=
      runCommand_rcSet 0#12 index value u
    exact handleAll_twice (h s) (by rw [h, rcWrite_rcWrite_same])
  · have h : handle (.cmd (Spec.word 0x32#8 (0#16 ++ value))) s = .next s :=
      (runCommand_rcLoadVal 0#16 value s).trans (execRcLoadVal_full value hl (by simp [hc]))
    exact handleAll_twice h h
  · exact handleAll_twice hrej (runCommand_raiseIllegal hrej)

end Sys2Proof.Machine
end

section
/-!
PROOFS. The decoder against the encoder (30_encoding.md R95 to R98): the format each OP selects and the bits it
reserves, said once for all 256 opcodes; the frame rows on the wire (R81, R87).
-/

namespace Sys2Proof

open Sys2Proof.Machine

/-! ### A format reads back the ARG it writes (R96) -/

@[simp] theorem formatN_zero (i : Instr) : formatN 0#32 i = .ok i := rfl

@[simp] theorem formatB_argB (b : Byte) (mk : Byte → Instr) : formatB (argB b) mk = .ok (mk b) :=
  formatB_append 0#24 b mk

@[simp] theorem formatFL_argFL (fid len : Half) (mk : Half → Half → Instr) :
    formatFL (argFL fid len) mk = .ok (mk fid len) :=
  formatFL_append fid len mk

@[simp] theorem formatHalf_argHalf (v : Half) (mk : Half → Instr) : formatHalf (argHalf v) mk = .ok (mk v) :=
  formatHalf_append 0#16 v mk

@[simp] theorem formatIV_argIV (index : BitVec 4) (value : Half) (mk : BitVec 4 → Half → Instr) :
    formatIV (argIV index value) mk = .ok (mk index value) :=
  formatIV_append 0#12 index value mk

/-! ### Decoding after encoding -/

/-- Every instruction is read back from its encoding. -/
theorem decode_encode (i : Instr) : decode (encode i) = some i := by
  cases i with
  | nop => exact decode_command_eq_some_iff.mpr ((decodeCommand_nop _).trans (formatN_zero _))
  | crcClr => exact decode_command_eq_some_iff.mpr ((decodeCommand_crcClr _).trans (formatN_zero _))
  | crcByte b => exact decode_command_eq_some_iff.mpr ((decodeCommand_crcByte _).trans (formatB_argB b _))
  | encStart fid len =>
    exact decode_command_eq_some_iff.mpr ((decodeCommand_encStart _).trans (formatFL_argFL fid len _))
  | encData b => exact decode_command_eq_some_iff.mpr ((decodeCommand_encData _).trans (formatB_argB b _))
  | encRc => exact decode_command_eq_some_iff.mpr ((decodeCommand_encRc _).trans (formatN_zero _))
  | decStart fid => exact decode_command_eq_some_iff.mpr ((decodeCommand_decStart _).trans (formatHalf_argHalf fid _))
  | rcSet index value =>
    exact decode_command_eq_some_iff.mpr ((decodeCommand_rcSet _).trans (formatIV_argIV index value _))
  | rcLoadBegin => exact decode_command_eq_some_iff.mpr ((decodeCommand_rcLoadBegin _).trans (formatN_zero _))
  | rcLoadVal value =>
    exact decode_command_eq_some_iff.mpr ((decodeCommand_rcLoadVal _).trans (formatHalf_argHalf value _))
  | rcLoadEnd => exact decode_command_eq_some_iff.mpr ((decodeCommand_rcLoadEnd _).trans (formatN_zero _))
  | _ => rfl

/-- Settles O1. -/
theorem decodeEncodeRoundTrip : Obligations.DecodeEncodeRoundTrip := decode_encode

/-! ### The format of every opcode (R97, R98) -/

/-- The opcodes of R97's table. -/
def commandOpcodes : List Byte :=
  [Opcode.nop, Opcode.crcClr, Opcode.crcByte, Opcode.encStart, Opcode.encData, Opcode.encRc, Opcode.decStart,
    Opcode.rcSet, Opcode.rcLoadBegin, Opcode.rcLoadVal, Opcode.rcLoadEnd]

/-- R98's ranges are exactly the opcodes outside R97's table. -/
theorem reservedOpcode_iff_notMem (op : Byte) : Spec.ReservedOpcode op ↔ op ∉ commandOpcodes := by
  revert op
  unfold Spec.ReservedOpcode
  decide

theorem decodeCommand_reservedOpcode {op : Byte} (h : Spec.ReservedOpcode op) (arg : BitVec 32) :
    decodeCommand (commandWord op arg) = .error .reservedOpcode := by
  have hop := (reservedOpcode_iff_notMem op).mp h
  simp only [commandOpcodes, List.mem_cons, not_or] at hop
  simp [decodeCommand, hop]

/-- What decoding does with ARG under an OP: one of R96's formats with its reserved bits, whose instructions encode to
words with that OP, or the rejection of a reserved OP. -/
inductive OpFormat (op : Byte) : (BitVec 32 → Except CmdReject Instr) → Prop where
  | noOperand (i : Instr) (henc : encode i = .command (commandWord op 0#32))
    (hmask : Spec.reservedMask op = BitVec.allOnes 32) : OpFormat op (formatN · i)
  | byte (mk : Byte → Instr) (henc : ∀ b, encode (mk b) = .command (commandWord op (argB b)))
    (hmask : Spec.reservedMask op = BitVec.allOnes 24 ++ 0#8) : OpFormat op (formatB · mk)
  | fidLen (mk : Half → Half → Instr) (henc : ∀ fid len, encode (mk fid len) = .command (commandWord op (argFL fid len)))
    (hmask : Spec.reservedMask op = 0#32) : OpFormat op (formatFL · mk)
  | half (mk : Half → Instr) (henc : ∀ v, encode (mk v) = .command (commandWord op (argHalf v)))
    (hmask : Spec.reservedMask op = BitVec.allOnes 16 ++ 0#16) : OpFormat op (formatHalf · mk)
  | indexValue (mk : BitVec 4 → Half → Instr)
    (henc : ∀ index value, encode (mk index value) = .command (commandWord op (argIV index value)))
    (hmask : Spec.reservedMask op = BitVec.allOnes 12 ++ 0#20) : OpFormat op (formatIV · mk)
  | reserved (h : Spec.ReservedOpcode op) : OpFormat op fun _ => .error .reservedOpcode

/-- Every OP has one of these formats. -/
theorem exists_opFormat (op : Byte) :
    ∃ f, OpFormat op f ∧ ∀ arg, decodeCommand (commandWord op arg) = f arg := by
  by_cases h : Spec.ReservedOpcode op
  · exact ⟨_, .reserved h, decodeCommand_reservedOpcode h⟩
  · rw [reservedOpcode_iff_notMem, not_not] at h
    simp only [commandOpcodes, List.mem_cons, List.not_mem_nil, or_false] at h
    obtain rfl | rfl | rfl | rfl | rfl | rfl | rfl | rfl | rfl | rfl | rfl := h
    · exact ⟨_, .noOperand .nop rfl rfl, decodeCommand_nop⟩
    · exact ⟨_, .noOperand .crcClr rfl rfl, decodeCommand_crcClr⟩
    · exact ⟨_, .byte .crcByte (fun _ => rfl) rfl, decodeCommand_crcByte⟩
    · exact ⟨_, .fidLen .encStart (fun _ _ => rfl) rfl, decodeCommand_encStart⟩
    · exact ⟨_, .byte .encData (fun _ => rfl) rfl, decodeCommand_encData⟩
    · exact ⟨_, .noOperand .encRc rfl rfl, decodeCommand_encRc⟩
    · exact ⟨_, .half .decStart (fun _ => rfl) rfl, decodeCommand_decStart⟩
    · exact ⟨_, .indexValue .rcSet (fun _ _ => rfl) rfl, decodeCommand_rcSet⟩
    · exact ⟨_, .noOperand .rcLoadBegin rfl rfl, decodeCommand_rcLoadBegin⟩
    · exact ⟨_, .half .rcLoadVal (fun _ => rfl) rfl, decodeCommand_rcLoadVal⟩
    · exact ⟨_, .noOperand .rcLoadEnd rfl rfl, decodeCommand_rcLoadEnd⟩

/-! ### Encoding after decoding -/

/-- An ARG that a format accepts is the ARG the encoder writes for the instruction. -/
theorem OpFormat.encode_eq {op : Byte} {f : BitVec 32 → Except CmdReject Instr} (hf : OpFormat op f) {arg : BitVec 32}
    {i : Instr} (h : f arg = .ok i) : encode i = .command (commandWord op arg) := by
  cases hf with
  | noOperand j henc =>
    obtain ⟨rfl, rfl⟩ := formatN_ok h
    exact henc
  | byte mk henc =>
    obtain ⟨b, rfl, rfl⟩ := formatB_ok h
    exact henc b
  | fidLen mk henc =>
    obtain ⟨fid, len, rfl, rfl⟩ := formatFL_ok h
    exact henc fid len
  | half mk henc =>
    obtain ⟨v, rfl, rfl⟩ := formatHalf_ok h
    exact henc v
  | indexValue mk henc =>
    obtain ⟨index, value, rfl, rfl⟩ := formatIV_ok h
    exact henc index value
  | reserved => cases h

theorem encode_of_decodeCommand {w : CmdWord} {i : Instr} (h : decodeCommand w = .ok i) : encode i = .command w := by
  obtain ⟨f, hf, hdec⟩ := exists_opFormat (opField w)
  rw [← commandWord_fields w] at h ⊢
  exact hf.encode_eq ((hdec _).symm.trans h)

theorem encode_of_decodeFid {v : Half} {i : Instr} (h : decodeFid v = some i) : encode i = .wire (le16 v) := by
  unfold decodeFid at h
  split_ifs at h <;> (cases h; subst v; rfl)

theorem encode_of_decodePreamble {bs : List Byte} {i : Instr} (h : decodePreamble bs = some i) :
    encode i = .wire bs := by
  unfold decodePreamble at h
  split_ifs at h <;> (cases h; subst bs; rfl)

theorem encode_of_decodeWire {bs : List Byte} {i : Instr} (h : decodeWire bs = some i) : encode i = .wire bs := by
  unfold decodeWire at h
  split at h
  next lo hi => rw [encode_of_decodeFid h, le16_fromLe16]
  next => exact encode_of_decodePreamble h
  next => cases h

/-- Settles O2, in each encoding space. -/
theorem eachEncodingHasOneMeaning : Obligations.EachEncodingHasOneMeaning := by
  unfold Obligations.EachEncodingHasOneMeaning
  intro e i h
  cases e with
  | command w => exact encode_of_decodeCommand (decode_command_eq_some_iff.mp h)
  | wire bs => exact encode_of_decodeWire h

/-! ### The reserved bits (R96, R98) -/

/-- Masking all but the low `s` bits leaves nothing exactly when the bits above them are 0. -/
theorem and_highMask_eq_zero_iff {k s : Nat} (x : BitVec (k + s)) :
    x &&& (BitVec.allOnes k ++ 0#s) = 0#(k + s) ↔ x.extractLsb' s k = 0#k := by
  have hx : x.extractLsb' s k ++ x.extractLsb' 0 s = x := append_extract k s x (Nat.add_comm k s)
  have hand : x &&& (BitVec.allOnes k ++ 0#s) = x.extractLsb' s k ++ 0#s := by
    conv_lhs => rw [← hx]
    rw [BitVec.and_append, BitVec.and_allOnes, BitVec.and_zero]
  rw [hand, ← BitVec.zero_append_zero, BitVec.append_left_inj]

/-- A format that does not reject OP answers an instruction exactly when every reserved bit is 0, and else rejects. -/
theorem OpFormat.ok_or_reservedBits {op : Byte} {f : BitVec 32 → Except CmdReject Instr} (hf : OpFormat op f)
    (hop : ¬ Spec.ReservedOpcode op) (arg : BitVec 32) :
    (arg &&& Spec.reservedMask op = 0#32 ∧ ∃ i, f arg = .ok i) ∨
      (arg &&& Spec.reservedMask op ≠ 0#32 ∧ f arg = .error .reservedBits) := by
  cases hf with
  | noOperand i _ hmask =>
    simp only [hmask, BitVec.and_allOnes, formatN]
    split <;> simp [*]
  | byte mk _ hmask =>
    simp only [hmask, ne_eq, and_highMask_eq_zero_iff (k := 24) (s := 8), formatB]
    split <;> simp [*]
  | fidLen mk _ hmask => exact .inl ⟨by rw [hmask, BitVec.and_zero], _, rfl⟩
  | half mk _ hmask =>
    simp only [hmask, ne_eq, and_highMask_eq_zero_iff (k := 16) (s := 16), formatHalf]
    split <;> simp [*]
  | indexValue mk _ hmask =>
    simp only [hmask, ne_eq, and_highMask_eq_zero_iff (k := 12) (s := 20), formatIV]
    split <;> simp [*]
  | reserved h => exact absurd h hop

/-- A word whose OP is not reserved decodes exactly when no reserved bit is set, and else is rejected with
ReservedBits (R98). -/
theorem decodeCommand_ok_or_reservedBits {w : CmdWord} (hop : ¬ Spec.ReservedOpcode (opField w)) :
    (¬ Spec.reservedBitSet w ∧ ∃ i, decodeCommand w = .ok i) ∨
      (Spec.reservedBitSet w ∧ decodeCommand w = .error .reservedBits) := by
  obtain ⟨f, hf, hdec⟩ := exists_opFormat (opField w)
  have hw : decodeCommand w = f (argField w) := by rw [← hdec, commandWord_fields]
  rw [hw]
  exact (hf.ok_or_reservedBits hop (argField w)).imp_left fun h => ⟨not_not.mpr h.1, h.2⟩

/-- Settles O3: the three clauses are the three results of decoding. -/
theorem reservedWordsRejectedInOrder : Obligations.ReservedWordsRejectedInOrder := by
  unfold Obligations.ReservedWordsRejectedInOrder
  intro w s
  refine ⟨fun hop => ?_, fun hop hbits => ?_, fun hop hbits => ?_⟩
  · have hdec : decodeCommand w = .error .reservedOpcode := by
      rw [← commandWord_fields w]
      exact decodeCommand_reservedOpcode hop _
    exact runCommand_error hdec s
  · obtain ⟨hbits', -⟩ | ⟨-, hdec⟩ := decodeCommand_ok_or_reservedBits hop
    · exact absurd hbits hbits'
    · exact runCommand_error hdec s
  · obtain ⟨-, i, hdec⟩ | ⟨hbits', -⟩ := decodeCommand_ok_or_reservedBits hop
    · exact ⟨i, encode_of_decodeCommand hdec, runCommand_ok hdec s⟩
    · exact absurd hbits' hbits

/-! ### Words written out (R95 to R98; log 12) -/

/-- Settles O4: closed words, so the decoder computes each. -/
theorem specWordsDecode : Obligations.SpecWordsDecode := by
  unfold Obligations.SpecWordsDecode
  decide

end Sys2Proof
end

section
/-!
PROOFS. The frame rows of the opcode table as bytes on RX (30_encoding.md R81, R87; log 3): a wire event is each of its
bytes arriving and taking its Rx event.
-/

namespace Sys2Proof.Machine

/-- Each byte arrives on RX and is then followed by one Rx event (R44, R165). -/
def arrivalEvents (bs : List Byte) : List Event := bs.flatMap fun b => [.arrive b, .rx]

/-- Bytes on the wire are these events one after another (log 4). -/
theorem handleAll_arrivalEvents (bs : List Byte) (s : State) :
    handleAll (arrivalEvents bs) s = .next (rxBytes bs s) := by
  induction bs generalizing s with
  | nil => rfl
  | cons b rest ih => exact ih (rxEvent (s.arrive b))

/-- A frame row answers the state in which its bytes have arrived and taken their Rx events, and changes nothing
outside DEC and RX. -/
theorem exec_frameRow {i : Instr} {bs : List Byte} (h : decodeWire bs = some i) (s : State) :
    ∃ t, exec i s = .next t ∧ handleAll (arrivalEvents bs) s = .next t ∧ Spec.OutsideDecUnchanged s t :=
  ⟨rxBytes bs s, exec_of_decodeWire h s, handleAll_arrivalEvents bs s,
    decMoves_outsideDecUnchanged (rxBytes_moves bs s)⟩

/-- Settles O41: every row of the two lists is what the decoder reads from its bytes. -/
theorem frameRowsArriveOnRx : Obligations.FrameRowsArriveOnRx := by
  unfold Obligations.FrameRowsArriveOnRx
  intro s
  constructor
  · intro i lo hi
    have hrow : decodeWire [lo, 0x00#8] = some i := by
      simp only [List.mem_cons, Prod.mk.injEq, List.not_mem_nil, or_false] at hi
      obtain ⟨rfl, rfl⟩ | ⟨rfl, rfl⟩ | ⟨rfl, rfl⟩ | ⟨rfl, rfl⟩ | ⟨rfl, rfl⟩ | ⟨rfl, rfl⟩ := hi <;> rfl
    exact exec_frameRow hrow s
  · intro i dir hi
    have hrow : decodeWire [0x24#8, 0x58#8, dir] = some i := by
      simp only [List.mem_cons, Prod.mk.injEq, List.not_mem_nil, or_false] at hi
      obtain ⟨rfl, rfl⟩ | ⟨rfl, rfl⟩ := hi <;> rfl
    exact exec_frameRow hrow s

end Sys2Proof.Machine
end

section
/-!
PROOFS. The frame ENC_RC emits (30_encoding.md R88): the serialized registers (43_rc_channels.md R206), the parts of a
request frame (R80, R90), and the one frame made of both.
-/

namespace Sys2Proof.Machine

/-! ### `rc_serialize()` (R206) -/

@[simp] theorem length_flatMap_le16 (vs : List Half) : (vs.flatMap le16).length = 2 * vs.length := by
  simp [List.length_flatMap, Nat.mul_comm]

/-- Value `i` of a serialized list lies at bytes `2i` and `2i+1`, the low byte first (R63). -/
theorem getElem?_flatMap_le16 (vs : List Half) (i : Nat) :
    (vs.flatMap le16)[2 * i]? = vs[i]?.map (·.extractLsb' 0 8) ∧
      (vs.flatMap le16)[2 * i + 1]? = vs[i]?.map (·.extractLsb' 8 8) := by
  induction vs generalizing i with
  | nil => simp
  | cons v vs ih =>
    cases i with
    | zero => exact ⟨rfl, rfl⟩
    | succ i => exact ih i

@[simp] theorem length_rcSerialize (s : State) : s.rcSerialize.length = 32 := by
  simp [State.rcSerialize]

/-- Channel `i` lies at bytes `2i` and `2i+1` of the serialized registers, the low byte first (R206). -/
theorem getElem?_rcSerialize (s : State) (i : BitVec 4) :
    s.rcSerialize[2 * i.toNat]? = some ((s.rcRead i).extractLsb' 0 8) ∧
      s.rcSerialize[2 * i.toNat + 1]? = some ((s.rcRead i).extractLsb' 8 8) := by
  have hget : s.rc.toList[i.toNat]? = some (s.rcRead i) := by
    simp [State.rcRead, i.isLt]
  obtain ⟨hlo, hhi⟩ := getElem?_flatMap_le16 s.rc.toList i.toNat
  rw [hget] at hlo hhi
  exact ⟨hlo, hhi⟩

/-! ### Request frames (R80, R90) -/

theorem frameRegion_request (fid : Half) (payload : List Byte) :
    frameRegion 0x00#8 fid payload = headerRegion fid (BitVec.ofNat 16 payload.length) ++ payload := rfl

/-- A request frame's parts: eight bytes up to the length field, the payload, the checksum (R80). -/
theorem requestFrame_eq (fid : Half) (payload : List Byte) :
    requestFrame fid payload =
      (requestPreamble ++ headerRegion fid (BitVec.ofNat 16 payload.length)) ++ payload ++
        [crc8 (frameRegion 0x00#8 fid payload)] := by
  simp [requestFrame, frameRegion_request]

@[simp] theorem length_requestPreamble : requestPreamble.length = 3 := rfl

@[simp] theorem length_headerRegion (fid len : Half) : (headerRegion fid len).length = 5 := rfl

@[simp] theorem length_requestFrame (fid : Half) (payload : List Byte) :
    (requestFrame fid payload).length = payload.length + 9 := by
  simp [requestFrame_eq]
  omega

theorem take_header_requestFrame (fid : Half) (payload : List Byte) :
    (requestFrame fid payload).take 8 = requestPreamble ++ headerRegion fid (BitVec.ofNat 16 payload.length) := rfl

/-- The payload's bytes lie behind the header (R80). -/
theorem getElem?_payload_requestFrame (fid : Half) {payload : List Byte} {k : Nat} (hk : k < payload.length) :
    (requestFrame fid payload)[8 + k]? = payload[k]? := by
  rw [requestFrame_eq, List.append_assoc, List.getElem?_append_right (by simp)]
  simp [List.getElem?_append_left hk]

/-- The last byte is the checksum (R80, R85). -/
theorem getElem?_checksum_requestFrame (fid : Half) (payload : List Byte) :
    (requestFrame fid payload)[payload.length + 8]? = some (crc8 (frameRegion 0x00#8 fid payload)) := by
  have hlen : payload.length + 8 =
      (requestPreamble ++ headerRegion fid (BitVec.ofNat 16 payload.length) ++ payload).length := by
    simp
    omega
  rw [requestFrame_eq, hlen, List.getElem?_concat_length]

/-- Between the preamble and the checksum lies the region the checksum covers (R85). -/
theorem region_requestFrame (fid : Half) (payload : List Byte) :
    ((requestFrame fid payload).take (payload.length + 8)).drop 3 = frameRegion 0x00#8 fid payload := by
  have hlen : payload.length + 8 = (requestPreamble ++ frameRegion 0x00#8 fid payload).length := by
    simp [frameRegion]
    omega
  rw [requestFrame, hlen, List.take_left]
  rfl

/-- A request frame whose payload fits the length field is well formed (R90). -/
theorem wellFormedRequest_requestFrame (fid : Half) {payload : List Byte} (h : payload.length ≤ 65535) :
    wellFormedRequest (requestFrame fid payload) = true := by
  have hfield : (BitVec.ofNat 16 payload.length).toNat = payload.length := Nat.mod_eq_of_lt (by omega)
  simp only [wellFormedRequest, wellFormedFrame, Bool.and_eq_true, decide_eq_true_eq, beq_iff_eq, length_requestFrame]
  refine ⟨⟨⟨⟨Nat.le_add_left 9 _, rfl⟩, ?_⟩, ?_⟩, rfl⟩
  · exact (congrArg BitVec.toNat (fromLe16_le16 _)).trans hfield
  · rw [Nat.add_succ_sub_one, region_requestFrame, List.getD_eq_getElem?_getD, getElem?_checksum_requestFrame]
    rfl

/-! ### ENC_RC (R88, R142) -/

/-- ENC_RC's frame is the request frame of function 200 over the serialized registers. -/
theorem execEncRc_requestFrame {s : State} (h : s.encBusy = false) :
    execEncRc s =
      .next { s with
        tx := s.tx ++ requestFrame fidSetRawRcId s.rcSerialize, encFid := fidSetRawRcId, encLen := 32#16
        encRemain := 0#16, encCrc := crc8 (frameRegion 0x00#8 fidSetRawRcId s.rcSerialize) } := by
  rw [execEncRc_idle h, requestFrame_eq, frameRegion_request, length_rcSerialize]

/-- Settles O17, by the parts of the request frame that ENC_RC emits. -/
theorem encRcEmitsSetRawRcFrame : Obligations.EncRcEmitsSetRawRcFrame := by
  unfold Obligations.EncRcEmitsSetRawRcFrame
  intro s
  refine ⟨runCommand_encRc 0#32 s, fun arg harg => ?_, execEncRc_busy, fun hidle => ?_⟩
  · exact (runCommand_encRc arg s).trans (if_neg harg)
  · have hlen := length_rcSerialize s
    refine ⟨requestFrame fidSetRawRcId s.rcSerialize, _, execEncRc_requestFrame hidle, ?_, ?_, fun i => ?_, ?_, ?_, ?_⟩
    · rw [length_requestFrame, hlen]
    · rw [take_header_requestFrame, hlen]
      rfl
    · obtain ⟨hlo, hhi⟩ := getElem?_rcSerialize s i
      have hi := i.isLt
      constructor
      · rw [getElem?_payload_requestFrame _ (by omega), hlo]
      · rw [Nat.add_assoc, getElem?_payload_requestFrame _ (by omega), hhi]
    · simpa [hlen] using getElem?_checksum_requestFrame fidSetRawRcId s.rcSerialize
    · have hregion := region_requestFrame fidSetRawRcId s.rcSerialize
      rw [hlen] at hregion
      rw [hregion]
    · exact wellFormedRequest_requestFrame fidSetRawRcId (by omega)

end Sys2Proof.Machine
end

section
/-!
PROOFS. The assembler (30_encoding.md R100, R101): the ARG of a number that fits its field, and the expansion of lists
of bytes and of 16-bit values.
-/

namespace Sys2Proof.Machine

/-! ### Operands as numbers (R96, R100) -/

/-- Two fields side by side are the number made of both, when the low one fits. -/
theorem ofNat_append_ofNat {k l : Nat} (a : Nat) {b : Nat} (h : b < 2 ^ l) :
    BitVec.ofNat k a ++ BitVec.ofNat l b = BitVec.ofNat (k + l) (a * 2 ^ l + b) := by
  have hmod : (a * 2 ^ l + b) % 2 ^ l = b := by rw [Nat.mul_add_mod', Nat.mod_eq_of_lt h]
  have hdiv : (a * 2 ^ l + b) / 2 ^ l = a := by
    rw [Nat.add_comm, Nat.add_mul_div_right _ _ (Nat.two_pow_pos l), Nat.div_eq_of_lt h, Nat.zero_add]
  apply BitVec.eq_of_toNat_eq
  rw [BitVec.toNat_append, BitVec.toNat_ofNat, BitVec.toNat_ofNat, BitVec.toNat_ofNat, Nat.mod_eq_of_lt h,
    ← Nat.shiftLeft_add_eq_or_of_lt h, Nat.shiftLeft_eq, Nat.pow_add, Nat.mul_comm (2 ^ k) (2 ^ l), Nat.mod_mul,
    hmod, hdiv, Nat.mul_comm, Nat.add_comm]

theorem argB_ofNat {n : Nat} (h : n ≤ 0xFF) : argB (BitVec.ofNat 8 n) = BitVec.ofNat 32 n := by
  simpa [argB] using ofNat_append_ofNat (k := 24) (l := 8) 0 (Nat.lt_succ_of_le h)

theorem argHalf_ofNat {n : Nat} (h : n ≤ 0xFFFF) : argHalf (BitVec.ofNat 16 n) = BitVec.ofNat 32 n := by
  simpa [argHalf] using ofNat_append_ofNat (k := 16) (l := 16) 0 (Nat.lt_succ_of_le h)

theorem argFL_ofNat {n : Nat} (m : Nat) (h : n ≤ 0xFFFF) :
    argFL (BitVec.ofNat 16 n) (BitVec.ofNat 16 m) = BitVec.ofNat 32 (m * 65536 + n) :=
  ofNat_append_ofNat (k := 16) (l := 16) m (Nat.lt_succ_of_le h)

theorem argIV_ofNat {n m : Nat} (hn : n ≤ 15) (hm : m ≤ 0xFFFF) :
    argIV (BitVec.ofNat 4 n) (BitVec.ofNat 16 m) = BitVec.ofNat 32 (n * 65536 + m) := by
  have hhi : 0#12 ++ BitVec.ofNat 4 n = BitVec.ofNat 16 n := by
    simpa using ofNat_append_ofNat (k := 12) (l := 4) 0 (Nat.lt_succ_of_le hn)
  rw [argIV, hhi]
  exact ofNat_append_ofNat (k := 16) (l := 16) n (Nat.lt_succ_of_le hm)

/-- A line is assembled exactly when its operands fit (R100). -/
theorem assemble_eq_ite {l : SourceLine} {p : Prop} [Decidable p] {es : List Event} (hfit : l.wellFormed = true ↔ p)
    (hes : p → expandLine l = es) : assemble l = if p then some es else none := by
  by_cases hp : p
  · rw [assemble, if_pos (hfit.mpr hp), if_pos hp, hes hp]
  · rw [assemble, if_neg (fun h => hp (hfit.mp h)), if_neg hp]

/-- Settles O57: each line's check is its fields' bounds, and inside them ARG is the number written. -/
theorem assemblerChecksOperands : Obligations.AssemblerChecksOperands := by
  unfold Obligations.AssemblerChecksOperands
  intro n m
  refine ⟨?_, ?_, ?_, ?_, ?_, ?_⟩
  · refine assemble_eq_ite (by simp [SourceLine.wellFormed, fitsByte]) fun h => ?_
    rw [← argB_ofNat h]
    rfl
  · refine assemble_eq_ite (by simp [SourceLine.wellFormed, fitsByte]) fun h => ?_
    rw [← argB_ofNat h]
    rfl
  · refine assemble_eq_ite (by simp [SourceLine.wellFormed, fitsHalf]) fun ⟨hn, _⟩ => ?_
    rw [← argFL_ofNat m hn]
    rfl
  · refine assemble_eq_ite (by simp [SourceLine.wellFormed, fitsHalf]) fun h => ?_
    rw [← argHalf_ofNat h]
    rfl
  · refine assemble_eq_ite (by simp [SourceLine.wellFormed, fitsIndex, fitsHalf]) fun ⟨hn, hm⟩ => ?_
    rw [← argIV_ofNat hn hm]
    rfl
  · refine assemble_eq_ite (by simp [SourceLine.wellFormed, fitsHalf]) fun h => ?_
    rw [← argHalf_ofNat h]
    rfl

/-! ### Lists of operands (R101) -/

@[simp] theorem fitsByte_toNat (b : Byte) : fitsByte b.toNat = true := by
  have := b.isLt
  simp [fitsByte]
  omega

@[simp] theorem fitsHalf_toNat (v : Half) : fitsHalf v.toNat = true := by
  have := v.isLt
  simp [fitsHalf]
  omega

theorem assemble_of_wellFormed {l : SourceLine} (h : l.wellFormed = true) : assemble l = some (expandLine l) :=
  if_pos h

/-- Numbers written from bit vectors are read back as them. -/
theorem map_ofNat_map_toNat {w : Nat} (xs : List (BitVec w)) (g : BitVec w → Event) :
    ((xs.map BitVec.toNat).map fun n => g (BitVec.ofNat w n)) = xs.map g := by
  simp

/-- Settles O58: a line of fitting operands expands to its events, whose words are R97's. -/
theorem pseudoInstructionsExpand : Obligations.PseudoInstructionsExpand := by
  unfold Obligations.PseudoInstructionsExpand
  refine ⟨fun fid bs hlen => ?_, fun fid bs hlen => ?_, fun fid => ?_, fun bs => ⟨?_, ?_⟩, fun vs => ?_, rfl, rfl, rfl⟩
  · have hfit : fitsHalf bs.length = true := decide_eq_true hlen
    rw [assemble_of_wellFormed (by simp [SourceLine.wellFormed, hfit]), expandLine,
      map_ofNat_map_toNat bs fun b => eventOf (.encData b), List.length_map, BitVec.ofNat_toNat, BitVec.setWidth_eq]
    rfl
  · exact if_neg (by simp [SourceLine.wellFormed, fitsHalf]; omega)
  · have hfit : fitsHalf 0 = true := rfl
    rw [assemble_of_wellFormed (by simp [SourceLine.wellFormed]),
      assemble_of_wellFormed (by simp [SourceLine.wellFormed, hfit])]
    rfl
  · rw [assemble_of_wellFormed (by simp [SourceLine.wellFormed]), expandLine,
      map_ofNat_map_toNat bs fun b => eventOf (.crcByte b)]
    rfl
  · rw [assemble_of_wellFormed (by simp [SourceLine.wellFormed]), expandLine,
      map_ofNat_map_toNat bs fun b => .wire [b]]
  · rw [assemble_of_wellFormed (by simp [SourceLine.wellFormed]), expandLine,
      map_ofNat_map_toNat vs fun v => eventOf (.rcLoadVal v)]
    rfl

end Sys2Proof.Machine
end

section
/-!
PROOFS. The algebra of the CRC (40_crc.md R124). One round is a linear injection on bytes, so an update is injective in
accumulator and byte, and a fold over a sequence is injective in the accumulator it starts from.
-/

namespace Sys2Proof.Machine

/-! ### One round -/

/-- A round is linear over GF(2). -/
theorem crcRound_xor (a b : Byte) : crcRound (a ^^^ b) = crcRound a ^^^ crcRound b := by
  simp only [crcRound, BitVec.getLsbD_xor, BitVec.shiftLeft_xor_distrib]
  cases a.getLsbD 7 <;> cases b.getLsbD 7
  case false.false => rfl
  case false.true => exact BitVec.xor_assoc _ _ _
  case true.false =>
    simp only [Bool.xor_false, if_true, Bool.false_eq_true, if_false]
    ac_rfl
  case true.true =>
    have hcancel : a <<< 1 ^^^ crcPoly ^^^ (b <<< 1 ^^^ crcPoly) = a <<< 1 ^^^ b <<< 1 ^^^ (crcPoly ^^^ crcPoly) := by
      ac_rfl
    simp [hcancel]

/-- A shift by one moves every bit but the last one up. -/
theorem getLsbD_shiftLeft_one (a : Byte) {i : Nat} (h : i < 7) : (a <<< 1).getLsbD (i + 1) = a.getLsbD i := by
  have hwidth : i + 1 < 8 := Nat.succ_lt_succ h
  rw [BitVec.getLsbD_shiftLeft, decide_eq_true hwidth]
  simp

/-- Only zero goes to zero: a set bit 7 comes back as bit 0 of the polynomial, and the other bits are kept. -/
theorem eq_zero_of_crcRound_eq_zero {a : Byte} (h : crcRound a = 0x00#8) : a = 0x00#8 := by
  unfold crcRound at h
  split at h
  case isTrue =>
    have hbit := congrArg (·.getLsbD 0) h
    simp [crcPoly] at hbit
  case isFalse h7 =>
    refine BitVec.eq_of_getLsbD_eq fun i hi => ?_
    rw [BitVec.getLsbD_zero]
    have hbit : (a <<< 1).getLsbD (i + 1) = (0x00#8).getLsbD (i + 1) := congrArg (·.getLsbD (i + 1)) h
    rcases Nat.lt_succ_iff_lt_or_eq.mp hi with hlow | rfl
    · rwa [getLsbD_shiftLeft_one a hlow, BitVec.getLsbD_zero] at hbit
    · simpa using h7

theorem crcRound_injective : Function.Injective crcRound := by
  intro a b h
  have hdiff : crcRound (a ^^^ b) = 0x00#8 := by rw [crcRound_xor, h, BitVec.xor_self]
  exact BitVec.xor_eq_zero_iff.mp (eq_zero_of_crcRound_eq_zero hdiff)

/-! ### One update -/

theorem crc8Update_eq_iterate (acc b : Byte) : crc8Update acc b = crcRound^[8] (acc ^^^ b) := rfl

@[simp] theorem crc8Update_self (b : Byte) : crc8Update b b = 0x00#8 := by
  rw [crc8Update_eq_iterate, BitVec.xor_self]
  rfl

theorem crc8Update_injective_acc (b : Byte) : Function.Injective fun acc => crc8Update acc b :=
  (crcRound_injective.iterate 8).comp fun _ _ => (BitVec.xor_left_inj b).mp

theorem crc8Update_injective_byte (acc : Byte) : Function.Injective (crc8Update acc) :=
  (crcRound_injective.iterate 8).comp fun _ _ => (BitVec.xor_right_inj acc).mp

/-- An update gives zero exactly when accumulator and byte agree (R124 law 5). -/
theorem crc8Update_eq_zero_iff (acc b : Byte) : crc8Update acc b = 0x00#8 ↔ acc = b := by
  rw [← crc8Update_self b]
  exact (crc8Update_injective_acc b).eq_iff

/-! ### Sequences -/

/-- Whatever bytes follow, different accumulators stay different. -/
theorem crc8From_injective (s : List Byte) : Function.Injective fun acc => crc8From acc s := by
  induction s with
  | nil => exact Function.injective_id
  | cons b rest ih => exact ih.comp (crc8Update_injective_acc b)

/-- Zero bytes leave a zero accumulator zero. -/
theorem crc8From_zero_replicate (n : Nat) : crc8From 0x00#8 (List.replicate n 0x00#8) = 0x00#8 := by
  induction n with
  | zero => rfl
  | succ n ih => rw [List.replicate_succ, crc8From_cons, crc8Update_self, ih]

/-- Settles O11: laws 4 and 5 are the injectivity of an update, and laws 6 and 7 follow from law 5. -/
theorem crcAlgebraicLaws : Obligations.CrcAlgebraicLaws := by
  unfold Obligations.CrcAlgebraicLaws
  refine ⟨?_, ?_, ?_, ?_, crc8Update_eq_zero_iff, ?_, crc8From_zero_replicate⟩
  · intro s t
    exact crc8From_append crcInit s t
  · intro acc b
    rw [crc8Update_eq_iterate, crc8Update_eq_iterate, BitVec.zero_xor]
  · intro b
    exact Finite.injective_iff_bijective.mp (crc8Update_injective_acc b)
  · intro acc
    exact Finite.injective_iff_bijective.mp (crc8Update_injective_byte acc)
  · intro s
    rw [crc8_concat, crc8Update_self]

/-- Settles O12: the differing bytes give different accumulators, and the bytes after them keep them different. -/
theorem crcDetectsSingleByteChange : Obligations.CrcDetectsSingleByteChange := by
  unfold Obligations.CrcDetectsSingleByteChange
  intro u v a b hab heq
  rw [crc8, crc8, crc8From_append, crc8From_append, crc8From_cons, crc8From_cons] at heq
  exact hab (crc8Update_injective_byte _ (crc8From_injective v heq))

end Sys2Proof.Machine
end

section
/-!
PROOFS. An update as a remainder of polynomials over GF(2) (R124 law 3): a round multiplies by `x` modulo the generator.
-/

namespace Sys2Proof.Machine

open Polynomial

/-- The polynomial over GF(2) whose coefficients are the bits of a byte. -/
noncomputable def bytePoly (v : Byte) : (ZMod 2)[X] := ∑ i ∈ Finset.range 8, if v.getLsbD i then X ^ i else 0

/-- The generator polynomial of the CRC, with its leading term (R124). -/
noncomputable def crcGenerator : (ZMod 2)[X] := X ^ 8 + X ^ 7 + X ^ 6 + X ^ 4 + X ^ 2 + 1

theorem crcGenerator_monic : crcGenerator.Monic := by
  unfold crcGenerator
  monicity!

theorem degree_crcGenerator : crcGenerator.degree = 8 := by
  unfold crcGenerator
  compute_degree!

theorem degree_bytePoly_lt (v : Byte) : (bytePoly v).degree < crcGenerator.degree := by
  rw [degree_crcGenerator]
  refine mem_degreeLT.mp (Submodule.sum_mem _ fun i hi => ?_)
  split
  · rw [mem_degreeLT, degree_X_pow]
    exact_mod_cast Finset.mem_range.mp hi
  · exact Submodule.zero_mem _

/-- XOR of bytes is addition of polynomials. -/
theorem bytePoly_xor (a b : Byte) : bytePoly (a ^^^ b) = bytePoly a + bytePoly b := by
  rw [bytePoly, bytePoly, bytePoly, ← Finset.sum_add_distrib]
  refine Finset.sum_congr rfl fun i _ => ?_
  rw [BitVec.getLsbD_xor]
  cases a.getLsbD i <;> cases b.getLsbD i <;> simp [CharTwo.add_self_eq_zero]

/-- A shift by one is multiplication by `x`, up to the bit shifted out. -/
theorem X_mul_bytePoly (a : Byte) :
    X * bytePoly a = bytePoly (a <<< 1) + if a.getLsbD 7 then X ^ 8 else 0 := by
  rw [bytePoly, bytePoly, Finset.mul_sum, Finset.sum_range_succ,
    Finset.sum_range_succ' (fun i => if (a <<< 1).getLsbD i then (X : (ZMod 2)[X]) ^ i else 0)]
  have hlow : ∀ i ∈ Finset.range 7, X * (if a.getLsbD i then (X : (ZMod 2)[X]) ^ i else 0) =
      if (a <<< 1).getLsbD (i + 1) then X ^ (i + 1) else 0 := fun i hi => by
    rw [getLsbD_shiftLeft_one a (Finset.mem_range.mp hi), mul_ite, mul_zero, pow_succ']
  rw [Finset.sum_congr rfl hlow]
  simp [mul_ite, ← pow_succ']

theorem bytePoly_crcPoly : bytePoly crcPoly = 1 + X ^ 2 + X ^ 4 + X ^ 6 + X ^ 7 := by
  simp [bytePoly, crcPoly, Finset.sum_range_succ]

/-- The polynomial constant is the generator without its leading term (R7, R120). -/
theorem X_pow_eight_add_bytePoly_crcPoly : X ^ 8 + bytePoly crcPoly = crcGenerator := by
  rw [bytePoly_crcPoly, crcGenerator]
  ring

/-- A round is multiplication by `x` modulo the generator. -/
theorem crcGenerator_dvd_round (a : Byte) : crcGenerator ∣ X * bytePoly a - bytePoly (crcRound a) := by
  rw [X_mul_bytePoly, crcRound]
  split
  · rw [bytePoly_xor, add_sub_add_left_eq_sub, CharTwo.sub_eq_add, X_pow_eight_add_bytePoly_crcPoly]
  · simp

/-- `n` rounds are multiplication by `x^n` modulo the generator. -/
theorem crcGenerator_dvd_iterate (n : Nat) (a : Byte) :
    crcGenerator ∣ X ^ n * bytePoly a - bytePoly (crcRound^[n] a) := by
  induction n with
  | zero => simp
  | succ n ih =>
    rw [Function.iterate_succ_apply']
    have hsplit : X ^ (n + 1) * bytePoly a - bytePoly (crcRound (crcRound^[n] a)) =
        X * (X ^ n * bytePoly a - bytePoly (crcRound^[n] a)) +
          (X * bytePoly (crcRound^[n] a) - bytePoly (crcRound (crcRound^[n] a))) := by ring
    rw [hsplit]
    exact dvd_add (ih.mul_left X) (crcGenerator_dvd_round _)

/-- A byte congruent to a polynomial is its remainder. -/
theorem modByMonic_crcGenerator_eq {f : (ZMod 2)[X]} {v : Byte} (h : crcGenerator ∣ f - bytePoly v) :
    f %ₘ crcGenerator = bytePoly v := by
  obtain ⟨q, hq⟩ := h
  have hf : bytePoly v + crcGenerator * q = f := by rw [← hq, add_sub_cancel]
  exact (div_modByMonic_unique q _ crcGenerator_monic ⟨hf, degree_bytePoly_lt v⟩).2

/-- Settles O10: an update of a zero accumulator is eight rounds, each a multiplication by `x`. -/
theorem crcUpdateIsPolynomialRemainder : Obligations.CrcUpdateIsPolynomialRemainder := by
  unfold Obligations.CrcUpdateIsPolynomialRemainder
  intro v
  have hshift : (∑ i ∈ Finset.range 8, if v.getLsbD i then (X : (ZMod 2)[X]) ^ (i + 8) else 0) =
      X ^ 8 * bytePoly v := by
    simp only [bytePoly, Finset.mul_sum, mul_ite, mul_zero, ← pow_add, Nat.add_comm]
  have hrounds : crc8Update 0#8 v = crcRound^[8] v := by rw [crc8Update_eq_iterate, BitVec.zero_xor]
  rw [hshift, hrounds]
  exact modByMonic_crcGenerator_eq (crcGenerator_dvd_iterate 8 v)

end Sys2Proof.Machine
end

section
/-!
PROOFS. NOP and the CRCU commands (40_crc.md R122, R123; 43_rc_channels.md R210), alone and over a sequence of bytes.
-/

namespace Sys2Proof.Machine

theorem handle_crcClr (s : State) :
    handle (.cmd (Spec.word 0x01#8 0#32)) s = .next { s with crcAcc := 0x00#8 } :=
  (runCommand_crcClr 0#32 s).trans (if_pos rfl)

theorem handle_crcByte (b : Byte) (s : State) :
    handle (.cmd (Spec.word 0x02#8 (0#24 ++ b))) s = .next { s with crcAcc := crc8Update s.crcAcc b } :=
  (runCommand_crcByte 0#24 b s).trans (if_pos rfl)

/-- Settles O9: each word runs its instruction, or is rejected when a reserved bit is set. -/
theorem nopAndCrcCommands : Obligations.NopAndCrcCommands := by
  unfold Obligations.NopAndCrcCommands
  intro s
  refine ⟨rfl, rfl, fun _ => rfl, ?_, handle_crcClr s, fun b => handle_crcByte b s, fun arg harg => ⟨?_, ?_⟩,
    fun hi b hhi => ?_⟩
  · exact (runCommand_nop 0#32 s).trans (if_pos rfl)
  · exact (runCommand_nop arg s).trans (if_neg harg)
  · exact (runCommand_crcClr arg s).trans (if_neg harg)
  · exact (runCommand_crcByte hi b s).trans (if_neg hhi)

/-- One CRC_BYTE per byte folds the sequence into CRC_ACC (R123). -/
theorem handleAll_crcBytes (bs : List Byte) (s : State) :
    handleAll (bs.map fun b => Event.cmd (Spec.word 0x02#8 (0#24 ++ b))) s =
      .next { s with crcAcc := crc8From s.crcAcc bs } := by
  induction bs generalizing s with
  | nil => rfl
  | cons b rest ih => rw [List.map_cons, handleAll_cons_next (handle_crcByte b s), ih, crc8From_cons]

/-- Settles O13: CRC_CLR starts the fold at 0, and each CRC_BYTE is one update of it. -/
theorem crcSequenceComputesCrc8 : Obligations.CrcSequenceComputesCrc8 := by
  unfold Obligations.CrcSequenceComputesCrc8
  intro bs s
  rw [handleAll_cons_next (handle_crcClr s), handleAll_crcBytes]
  rfl

end Sys2Proof.Machine
end

section
/-!
PROOFS. CRCU is independent of ENC and DEC (40_crc.md R126): no ENC or DEC operation reads or writes CRC_ACC.
-/

namespace Sys2Proof.Machine

/-- The state with another value in CRC_ACC. -/
def State.withCrcAcc (s : State) (acc : Byte) : State := { s with crcAcc := acc }

section

variable (s : State) (acc : Byte)

/-! ### DEC's events -/

theorem rxByte_withCrcAcc (b : Byte) : rxByte b (s.withCrcAcc acc) = (rxByte b s).withCrcAcc acc := by
  rw [rxByte, rxByte, show (s.withCrcAcc acc).decState = s.decState from rfl]
  cases s.decState with
  | scanning =>
    rw [rxScan, rxScan, apply_ite (State.withCrcAcc · acc)]
    rfl
  | headerRead =>
    rw [rxHeader, rxHeader, apply_ite (State.withCrcAcc · acc)]
    rfl
  | headerComplete =>
    rw [rxBody, rxBody, apply_ite (State.withCrcAcc · acc), apply_ite (State.withCrcAcc · acc)]
    rfl
  | idle | bodyComplete | failed => rfl

theorem rxEvent_withCrcAcc : rxEvent (s.withCrcAcc acc) = (rxEvent s).withCrcAcc acc := by
  cases ha : s.decState.active with
  | false => rw [rxEvent_inactive ha, rxEvent_inactive (s := s.withCrcAcc acc) ha]
  | true =>
    cases hx : s.rx with
    | nil => rw [rxEvent_empty hx, rxEvent_empty (s := s.withCrcAcc acc) hx]
    | cons b rest =>
      rw [rxEvent_cons ha hx, rxEvent_cons (s := s.withCrcAcc acc) ha hx]
      exact rxByte_withCrcAcc { s with rx := rest } acc b

theorem rxBytes_withCrcAcc (bs : List Byte) : rxBytes bs (s.withCrcAcc acc) = (rxBytes bs s).withCrcAcc acc :=
  List.foldl_hom (State.withCrcAcc · acc) fun t b => rxEvent_withCrcAcc (t.arrive b) acc

theorem timeoutEvent_withCrcAcc : timeoutEvent (s.withCrcAcc acc) = (timeoutEvent s).withCrcAcc acc := by
  rw [timeoutEvent, timeoutEvent, apply_ite (State.withCrcAcc · acc)]
  rfl

theorem elapseEvent_withCrcAcc (d : Nat) : elapseEvent d (s.withCrcAcc acc) = (elapseEvent d s).withCrcAcc acc := by
  by_cases h : s.timer = none ∨ s.decState.deadline = none
  · rw [elapseEvent_disarmed h, elapseEvent_disarmed (s := s.withCrcAcc acc) h]
  · obtain ⟨ht, hd⟩ := not_or.mp h
    obtain ⟨t, ht⟩ := Option.ne_none_iff_exists'.mp ht
    obtain ⟨deadline, hd⟩ := Option.ne_none_iff_exists'.mp hd
    rw [elapseEvent_armed ht hd, elapseEvent_armed (s := s.withCrcAcc acc) ht hd,
      apply_ite (State.withCrcAcc · acc), ← timeoutEvent_withCrcAcc]
    rfl

/-! ### The commands of ENC and DEC -/

theorem mapNext_next (f : State → State) (t : State) : Spec.mapNext f (.next t) = .next (f t) := rfl

/-- The change made to an outcome's next state goes into both branches. -/
theorem mapNext_ite (f : State → State) (p : Prop) [Decidable p] (o o' : Host.Outcome State Fault Refusal) :
    Spec.mapNext f (if p then o else o') = if p then Spec.mapNext f o else Spec.mapNext f o' :=
  apply_ite (Spec.mapNext f) p o o'

theorem execEncStart_withCrcAcc (fid len : Half) :
    execEncStart fid len (s.withCrcAcc acc) = Spec.mapNext (State.withCrcAcc · acc) (execEncStart fid len s) := by
  simp only [execEncStart, mapNext_ite]
  rfl

theorem execEncData_withCrcAcc (b : Byte) :
    execEncData b (s.withCrcAcc acc) = Spec.mapNext (State.withCrcAcc · acc) (execEncData b s) := by
  simp only [execEncData, mapNext_ite]
  rfl

theorem execEncRc_withCrcAcc :
    execEncRc (s.withCrcAcc acc) = Spec.mapNext (State.withCrcAcc · acc) (execEncRc s) := by
  simp only [execEncRc, mapNext_ite, mapNext_next, State.withCrcAcc, State.emit, State.rcSerialize]
  rfl

theorem execDecStart_withCrcAcc (fid : Half) :
    execDecStart fid (s.withCrcAcc acc) = Spec.mapNext (State.withCrcAcc · acc) (execDecStart fid s) := by
  simp only [execDecStart, mapNext_ite]
  rfl

end

/-- Settles O14: CRCU's commands write CRC_ACC alone, and each operation of ENC and DEC commutes with a change of it. -/
theorem crcuIndependentOfEncAndDec : Obligations.CrcuIndependentOfEncAndDec := by
  unfold Obligations.CrcuIndependentOfEncAndDec
  refine ⟨fun b s enc dec => ⟨rfl, rfl⟩, fun s acc => ⟨?_, ?_⟩⟩
  · rintro i (⟨fid, len, rfl⟩ | ⟨b, rfl⟩ | rfl | ⟨fid, rfl⟩)
    · exact execEncStart_withCrcAcc s acc fid len
    · exact execEncData_withCrcAcc s acc b
    · exact execEncRc_withCrcAcc s acc
    · exact execDecStart_withCrcAcc s acc fid
  · rintro e (rfl | rfl | ⟨bs, rfl⟩ | ⟨d, rfl⟩)
    · exact congrArg Host.Outcome.next (rxEvent_withCrcAcc s acc)
    · exact congrArg Host.Outcome.next (timeoutEvent_withCrcAcc s acc)
    · rw [handle, handle, runWire_eq, runWire_eq]
      exact congrArg Host.Outcome.next (rxBytes_withCrcAcc s acc bs)
    · exact congrArg Host.Outcome.next (elapseEvent_withCrcAcc s acc d)

end Sys2Proof.Machine
end

section
/-!
PROOFS. The encoder's invariant over TX (41_encoder.md R143): each command effect, Reset and every decoder move keep it,
and the data byte that is the last one due completes a frame.
-/

namespace Sys2Proof.Machine

variable {s t : State}

/-- An idle encoder owes TX nothing. -/
theorem encStreamOk_of_idle (h : s.encBusy = false) : EncStreamOk s := fun hbusy => by simp [h] at hbusy

/-- The invariant reads the registers of ENC and TX, and nothing else. -/
theorem encStreamOk_of_outsideDecUnchanged (h : EncStreamOk s) (ht : Spec.OutsideDecUnchanged s t) :
    EncStreamOk t := by
  obtain ⟨-, hbusy, hfid, hlen, hremain, hcrc, -, -, -, -, -, -, -, htx, -⟩ := ht
  simpa only [EncStreamOk, hbusy, hfid, hlen, hremain, hcrc, htx] using h

/-- One more payload byte is one more update of the region's checksum (R141). -/
theorem crc8_region_concat (hdr payload : List Byte) (b : Byte) :
    crc8 (hdr ++ (payload ++ [b])) = crc8Update (crc8 (hdr ++ payload)) b := by
  rw [← List.append_assoc, crc8_concat]

/-- Every effect of a command word keeps the encoder's invariant: ENC_START opens a frame only when none is in progress,
and ENC_DATA extends the payload of the one that is. -/
theorem encStreamOk_cmdEffect {op : Byte} (h : EncStreamOk s) (he : CmdEffect s op t) : EncStreamOk t := by
  cases he with
  | encWhole fid hop hb => exact encStreamOk_of_idle rfl
  | encOpen fid len hop hb hl => exact fun _ => ⟨s.tx, [], by simp, by simp, hl, by simp⟩
  | encLast b hop hb hr => exact encStreamOk_of_idle rfl
  | encMore b hop hb hr =>
    obtain ⟨before, payload, htx, hlen, hne, hcrc⟩ := h hb
    refine fun _ => ⟨before, payload ++ [b], by simp [htx], ?_, ?_, ?_⟩
    · have hcount : (s.encRemain - 1#16).toNat + 1 = s.encRemain.toNat := by bv_omega
      simp only [List.length_append, List.length_singleton]
      omega
    · show s.encRemain - 1#16 ≠ 0#16
      bv_omega
    · show crc8Update s.encCrc b = _
      rw [hcrc, crc8_region_concat]
  | encRc hop hb => exact encStreamOk_of_idle hb
  | _ => exact h

/-- Every event keeps the encoder's invariant. -/
theorem encStreamOk_handle {e : Event} (h : EncStreamOk s) (ht : handle e s = .next t) : EncStreamOk t := by
  obtain ⟨w, -, he⟩ | ⟨-, rfl⟩ | hm := handle_cases ht
  · exact encStreamOk_cmdEffect h he
  · exact encStreamOk_of_idle rfl
  · exact encStreamOk_of_outsideDecUnchanged h (decMoves_outsideDecUnchanged hm)

/-- Settles O21: a step is an event or nothing, and the schedule is no part of the invariant. -/
theorem stepKeepsEncoderStream : Obligations.StepKeepsEncoderStream := by
  unfold Obligations.StepKeepsEncoderStream
  intro s t h hstep
  cases hev : s.events with
  | nil =>
    rw [step_of_events_nil hev] at hstep
    cases hstep
    exact h
  | cons e rest =>
    have hrest : EncStreamOk { s with events := rest } := h
    exact encStreamOk_handle hrest ((step_of_events_cons hev).symm.trans hstep)

/-! ### The last data byte (R141) -/

/-- A request frame whose payload has the announced length, by that length. -/
theorem requestFrame_of_length (fid : Half) {len : Half} {payload : List Byte} (h : payload.length = len.toNat) :
    requestFrame fid payload =
      requestPreamble ++ headerRegion fid len ++ payload ++ [crc8 (headerRegion fid len ++ payload)] := by
  rw [requestFrame_eq, frameRegion_request, h, BitVec.ofNat_toNat, BitVec.setWidth_eq]

/-- Settles O20: the payload so far and the last byte have the announced length, and ENC_CRC is their checksum. -/
theorem lastDataByteCompletesFrame : Obligations.LastDataByteCompletesFrame := by
  unfold Obligations.LastDataByteCompletesFrame
  intro b s h hb hr
  obtain ⟨before, payload, htx, hlen, -, hcrc⟩ := h hb
  have hfull : (payload ++ [b]).length = s.encLen.toNat := by simpa [hr] using hlen
  refine ⟨_, before, payload ++ [b], execEncData_last b hb hr, rfl, hfull, List.getLast?_concat, ?_, ?_⟩
  · rw [requestFrame_of_length _ hfull, crc8_region_concat, ← hcrc]
    simp [htx]
  · exact wellFormedRequest_requestFrame _ (hfull ▸ Nat.le_of_lt_succ s.encLen.isLt)

end Sys2Proof.Machine
end

section
/-!
PROOFS. The commands of ENC (41_encoder.md R140, R141), alone and as the sequence that encodes a whole payload (R101).
-/

namespace Sys2Proof.Machine

variable {s : State}

theorem handle_encStart_word (fid len : Half) (s : State) :
    handle (.cmd (Spec.word 0x10#8 (len ++ fid))) s = execEncStart fid len s :=
  runCommand_encStart fid len s

theorem handle_encData_word (b : Byte) (s : State) :
    handle (.cmd (Spec.word 0x11#8 (0#24 ++ b))) s = execEncData b s :=
  (runCommand_encData 0#24 b s).trans (if_pos rfl)

/-- Settles O15: one clause for each way ENC_START can go. -/
theorem encStartEmitsHeader : Obligations.EncStartEmitsHeader := by
  unfold Obligations.EncStartEmitsHeader
  intro fid len s
  refine ⟨handle_encStart_word fid len s, execEncStart_busy fid len, fun hidle hlen => ?_, fun hidle hlen => ?_⟩
  · subst hlen
    refine (execEncStart_whole fid hidle).trans ?_
    simp [requestPreamble, headerRegion]
  · refine (execEncStart_open fid hidle hlen).trans ?_
    simp [requestPreamble, headerRegion]

/-- Settles O16: one clause for each way ENC_DATA can go; above 1 the count-down does not wrap. -/
theorem encDataEmitsPayloadAndChecksum : Obligations.EncDataEmitsPayloadAndChecksum := by
  unfold Obligations.EncDataEmitsPayloadAndChecksum
  intro b s
  refine ⟨handle_encData_word b s, fun hi hhi => ?_, execEncData_idle b, execEncData_last b, fun hb hr => ?_⟩
  · exact (runCommand_encData hi b s).trans (if_neg hhi)
  · have hne : s.encRemain ≠ 1#16 := by bv_omega
    have hcount : s.encRemain - 1#16 = BitVec.ofNat 16 (s.encRemain.toNat - 1) := by bv_omega
    refine (execEncData_more b hb hne).trans ?_
    rw [hcount, ← hb]

/-! ### A whole payload (R101) -/

/-- One ENC_DATA for each byte due appends the bytes and their checksum, and leaves ENC idle. -/
theorem handleAll_encData {payload : List Byte} (hne : payload ≠ []) (hlen : payload.length ≤ 65535)
    (hb : s.encBusy = true) (hr : s.encRemain = BitVec.ofNat 16 payload.length) :
    handleAll (payload.map fun b => .cmd (Spec.word 0x11#8 (0#24 ++ b))) s =
      .next { s with
        tx := s.tx ++ payload ++ [crc8From s.encCrc payload], encRemain := 0#16
        encCrc := crc8From s.encCrc payload, encBusy := false } := by
  induction payload generalizing s with
  | nil => exact absurd rfl hne
  | cons b rest ih =>
    rw [List.map_cons]
    rw [List.length_cons] at hlen hr
    by_cases hrest : rest = []
    · subst hrest
      rw [handleAll_cons_next ((handle_encData_word b s).trans (execEncData_last b hb hr))]
      simp [handleAll]
    · have hpos : 0 < rest.length := List.length_pos_iff.mpr hrest
      have hmore : s.encRemain ≠ 1#16 := by bv_omega
      have hcount : s.encRemain - 1#16 = BitVec.ofNat 16 rest.length := by bv_omega
      rw [handleAll_cons_next ((handle_encData_word b s).trans (execEncData_more b hb hmore)),
        ih hrest (by omega) rfl hcount]
      simp

/-- ENC_START and one ENC_DATA per byte of any payload that fits append its request frame (R80, R143). -/
theorem handleAll_encodeEvents (fid : Half) {payload : List Byte} (hidle : s.encBusy = false)
    (hlen : payload.length ≤ 65535) :
    handleAll (Spec.encodeEvents fid payload) s =
      .next { s with
        tx := s.tx ++ requestFrame fid payload, encFid := fid, encLen := BitVec.ofNat 16 payload.length
        encRemain := 0#16, encCrc := crc8 (frameRegion 0x00#8 fid payload), encBusy := false } := by
  rw [Spec.encodeEvents, requestFrame_eq, frameRegion_request]
  by_cases hne : payload = []
  · subst hne
    rw [List.length_nil, handleAll_cons_next ((handle_encStart_word fid _ s).trans (execEncStart_whole fid hidle))]
    simp [handleAll]
  · have hpos : 0 < payload.length := List.length_pos_iff.mpr hne
    have hfield : BitVec.ofNat 16 payload.length ≠ 0#16 := by bv_omega
    have hcrc (hdr : List Byte) : crc8From (crc8 hdr) payload = crc8 (hdr ++ payload) :=
      (crc8From_append crcInit hdr payload).symm
    rw [handleAll_cons_next ((handle_encStart_word fid _ s).trans (execEncStart_open fid hidle hfield)),
      handleAll_encData hne hlen rfl rfl]
    simp [hcrc]

/-- Settles O19: the frame appended is the request frame, whose region lies between preamble and checksum. -/
theorem encodedFrameIsWellFormedRequest : Obligations.EncodedFrameIsWellFormedRequest := by
  unfold Obligations.EncodedFrameIsWellFormedRequest
  intro fid payload s hidle hlen
  refine ⟨requestFrame fid payload, ?_, rfl, ?_, wellFormedRequest_requestFrame fid hlen⟩
  · rw [handleAll_encodeEvents fid hidle hlen, Nat.add_comm 8, region_requestFrame]
  · rw [length_requestFrame, Nat.add_comm]

/-- Settles O18: both append the request frame of function 200 over the 32 serialized bytes. -/
theorem encRcEqualsLongForm : Obligations.EncRcEqualsLongForm := by
  unfold Obligations.EncRcEqualsLongForm
  intro s hidle
  have hlen := length_rcSerialize s
  rw [handleAll_encodeEvents _ hidle (by omega), hlen, ← hidle]
  exact (execEncRc_requestFrame hidle).symm

end Sys2Proof.Machine
end

section
/-!
PROOFS. One decoder event, by the phase it falls in (42_decoder.md R164 to R169, R176, R177): DEC_START, Rx in each
active phase, Timeout and passing time, each with its frame.
-/

namespace Sys2Proof.Machine

variable {s : State}

/-- The active phases are those R160 does not call inactive. -/
theorem active_of_not_decInactive (h : ¬ Spec.DecInactive s) : s.decState.active = true := by
  rwa [decInactive_iff, Bool.not_eq_false] at h

/-! ### DEC_START (R164) -/

theorem handle_decStart (hi fid : Half) (s : State) :
    handle (.cmd (Spec.word 0x20#8 (hi ++ fid))) s =
      if hi = 0#16 then execDecStart fid s else .next (s.raiseIllegal .reservedBits Opcode.decStart) :=
  runCommand_decStart hi fid s

/-- Settles O24: a reserved bit, an active phase and an inactive state are the three ways DEC_START can go. -/
theorem decStartClearsAndScans : Obligations.DecStartClearsAndScans := by
  unfold Obligations.DecStartClearsAndScans
  intro fid s
  refine ⟨(handle_decStart 0#16 fid s).trans (if_pos rfl), fun hi hhi => ?_, fun hact => ?_, fun hinact => ?_⟩
  · exact (handle_decStart hi fid s).trans (if_neg hhi)
  · exact execDecStart_active fid (active_of_not_decInactive hact)
  · exact execDecStart_inactive fid (decInactive_iff.mp hinact)

/-! ### Rx (R165) -/

/-- A byte through the decoder leaves the pending bytes as they are: the Rx event has consumed it. -/
theorem rxByte_rx (b : Byte) (s : State) : (rxByte b s).rx = s.rx := by
  obtain ⟨-, h⟩ | ⟨-, -, h⟩ | ⟨-, -, h⟩ | ⟨-, -, h⟩ | ⟨-, -, h⟩ | ⟨-, -, h⟩ | ⟨-, -, h⟩ | ⟨-, -, h⟩ :=
    rxByte_cases b s
  all_goals exact (congrArg State.rx h).trans rfl

/-- An enabled Rx event takes the first pending byte through the decoder. -/
theorem handle_rx {b : Byte} {rest : List Byte} (ha : s.decState.active = true) (hx : s.rx = b :: rest) :
    handle .rx s = .next (rxByte b { s with rx := rest }) :=
  congrArg Host.Outcome.next (rxEvent_cons ha hx)

/-- Bytes on the wire are bytes through the decoder, one after another (log 4). -/
theorem handle_wire (bs : List Byte) (s : State) : handle (.wire bs) s = .next (rxBytes bs s) := runWire_eq bs s

/-- One more byte after a sequence that leaves DEC active with nothing pending. -/
theorem rxBytes_concat {t : State} {bs : List Byte} (h : rxBytes bs s = t) (ha : t.decState.active = true)
    (hx : t.rx = []) (b : Byte) : rxBytes (bs ++ [b]) s = rxByte b t := by
  rw [rxBytes_append, h, rxBytes_cons_active ha hx, rxBytes_nil]

/-- Settles O25: without an active phase or a pending byte Rx has no step, and with both it takes one byte. -/
theorem rxTakesOnePendingByteWhenActive : Obligations.RxTakesOnePendingByteWhenActive := by
  unfold Obligations.RxTakesOnePendingByteWhenActive
  intro s
  refine ⟨fun hinact => ?_, fun hx => ?_, fun b rest hact hx => ?_⟩
  · exact congrArg Host.Outcome.next (rxEvent_inactive (decInactive_iff.mp hinact))
  · exact congrArg Host.Outcome.next (rxEvent_empty hx)
  · exact ⟨_, handle_rx (active_of_not_decInactive hact) hx, rxByte_rx _ _,
      rxByte_outsideDecUnchanged b { s with rx := rest }⟩

theorem active_of_scanning (hs : s.decState = .scanning) : s.decState.active = true := by
  rw [hs]
  rfl

theorem active_of_headerRead (hs : s.decState = .headerRead) : s.decState.active = true := by
  rw [hs]
  rfl

theorem active_of_headerComplete (hs : s.decState = .headerComplete) : s.decState.active = true := by
  rw [hs]
  rfl

theorem rxByte_of_scanning (hs : s.decState = .scanning) (b : Byte) : rxByte b s = rxScan b s := by
  rw [rxByte, hs]

theorem rxByte_of_headerRead (hs : s.decState = .headerRead) (b : Byte) : rxByte b s = rxHeader b s := by
  rw [rxByte, hs]

theorem rxByte_of_headerComplete (hs : s.decState = .headerComplete) (b : Byte) : rxByte b s = rxBody b s := by
  rw [rxByte, hs]

/-! ### The registers an Rx writes -/

/-- The state with another tail. -/
def State.withTail (s : State) (tail : List Byte) : State := { s with decTail := tail }

/-- The state with other header bytes, `n` of them held. -/
def State.withHeader (s : State) (hdr : Vector Byte 8) (n : Nat) : State :=
  { s with decHdr := hdr, decHcnt := BitVec.ofNat 4 n }

/-- The state with another payload buffer, `n` of its bytes received. -/
def State.withPayload (s : State) (m : List Host.Cell) (n : Nat) : State :=
  { s with decPayload := m, decPcnt := BitVec.ofNat 16 n }

/-! ### Rx in Scanning (R166) -/

/-- The three writes of the preamble into DEC_HDR. -/
theorem set_preamble (v : Vector Byte 8) :
    ((v.set 0 0x24#8).set 1 0x58#8).set 2 0x3E#8 = #v[0x24#8, 0x58#8, 0x3E#8, v[3], v[4], v[5], v[6], v[7]] := by
  ext i hi
  match i with
  | 0 | 1 | 2 | 3 | 4 | 5 | 6 | 7 => simp

/-- When the tail ends with the preamble, header bytes 0 to 2 are held and the scan is over. -/
theorem rxByte_scanning_found (hs : s.decState = .scanning) {b : Byte}
    (h : responsePreamble <:+ lastN (s.decTail ++ [b]) tailCap) : rxByte b s = s.preambleFound := by
  have hlast : lastN (lastN (s.decTail ++ [b]) tailCap) 3 = responsePreamble := (List.suffix_iff_eq_drop.mp h).symm
  rw [rxByte_of_scanning hs]
  exact if_pos ⟨h.length_le, hlast⟩

/-- When it does not, the tail has taken the byte and nothing else happened. -/
theorem rxByte_scanning_more (hs : s.decState = .scanning) {b : Byte}
    (h : ¬ responsePreamble <:+ lastN (s.decTail ++ [b]) tailCap) :
    rxByte b s = s.withTail (lastN (s.decTail ++ [b]) tailCap) := by
  rw [rxByte_of_scanning hs]
  exact if_neg fun hfound => h (List.suffix_iff_eq_drop.mpr hfound.2.symm)

/-- Settles O26: the byte ends the scan exactly when the preamble is a suffix of the new tail. -/
theorem rxScanTestsLastThreeBytes : Obligations.RxScanTestsLastThreeBytes := by
  unfold Obligations.RxScanTestsLastThreeBytes
  intro s b rest hs hx
  have hrx : handle .rx s = .next (rxByte b { s with rx := rest }) := handle_rx (active_of_scanning hs) hx
  refine ⟨fun u hu => ?_, fun hno => ?_⟩
  · rw [hrx, rxByte_scanning_found (s := { s with rx := rest }) hs ⟨u, hu.symm⟩, State.preambleFound, set_preamble]
    rfl
  · rw [hrx, rxByte_scanning_more (s := { s with rx := rest }) hs fun ⟨u, hu⟩ => hno ⟨u, hu.symm⟩]
    rfl

/-! ### Rx in HeaderRead (R167) -/

/-- A header byte before the last one is stored at its position. -/
theorem rxByte_headerRead_more (hs : s.decState = .headerRead) {n : Nat} (hn : n < 7)
    (hc : s.decHcnt = BitVec.ofNat 4 n) (b : Byte) :
    rxByte b s = s.withHeader (s.decHdr.setIfInBounds n b) (n + 1) := by
  have hpos : s.decHcnt.toNat = n := by rw [hc, BitVec.toNat_ofNat]; omega
  have hnext : s.decHcnt + 1#4 = BitVec.ofNat 4 (n + 1) := by bv_omega
  have hopen : ¬ BitVec.ofNat 4 (n + 1) = 8#4 := by bv_omega
  rw [rxByte_of_headerRead hs]
  simp only [rxHeader, hnext, hpos, if_neg hopen]
  rfl

/-- The eighth header byte completes the header. -/
theorem rxByte_headerRead_last (hs : s.decState = .headerRead) (hc : s.decHcnt = 7#4) (b : Byte) :
    rxByte b s = (s.withHeader (s.decHdr.setIfInBounds 7 b) 8).headerDone := by
  rw [rxByte_of_headerRead hs]
  simp [rxHeader, hc, State.withHeader]

/-- Settles O27: a header byte is the last one exactly at position 7. -/
theorem rxHeaderCollectsFields : Obligations.RxHeaderCollectsFields := by
  unfold Obligations.RxHeaderCollectsFields
  intro s b rest n hn hs hx hc
  have hrx : handle .rx s = .next (rxByte b { s with rx := rest }) := handle_rx (active_of_headerRead hs) hx
  refine ⟨fun hlt => ?_, fun hlast => ?_⟩
  · rw [hrx, rxByte_headerRead_more (s := { s with rx := rest }) hs hlt hc, setIfInBounds_eq_set _ hn]
    rfl
  · subst hlast
    rw [hrx, rxByte_headerRead_last (s := { s with rx := rest }) hs hc, setIfInBounds_eq_set _ hn]
    simp [State.headerDone, State.withHeader, State.enterPhase, DecState.active]

/-! ### Rx in HeaderComplete (R168, R169) -/

/-- A payload byte is stored at DEC_PCNT. -/
theorem rxByte_payload (hs : s.decState = .headerComplete) (hlt : s.decPcnt.toNat < s.decLen.toNat) (b : Byte) :
    rxByte b s = s.withPayload (Memory.write s.decPayload s.decPcnt.toNat b) (s.decPcnt.toNat + 1) := by
  have hnext : s.decPcnt + 1#16 = BitVec.ofNat 16 (s.decPcnt.toNat + 1) := by bv_omega
  rw [rxByte_of_headerComplete hs, State.withPayload, ← hnext]
  exact if_pos hlt

/-- The checksum byte completes the body. -/
theorem rxByte_checksum (hs : s.decState = .headerComplete) (heq : s.decPcnt = s.decLen) (b : Byte) :
    rxByte b s = rxChecksum b s := by
  rw [rxByte_of_headerComplete hs]
  simp [rxBody, heq]

/-- DEC_PCNT below DEC_LEN lies inside the buffer (R34). -/
theorem lt_payloadCap_of_lt_toNat {i : Nat} {len : Half} (h : i < len.toNat) : i < payloadCap := by
  have hlen := len.isLt
  show i < 65535
  omega

/-- Settles O28: the buffer after the byte is the one `Memory.write` gives. -/
theorem rxPayloadStoresByte : Obligations.RxPayloadStoresByte := by
  unfold Obligations.RxPayloadStoresByte
  intro s b rest hs hx hlt hwf
  refine ⟨Memory.write s.decPayload s.decPcnt.toNat b, ?_, Memory.write_wf b hwf (lt_payloadCap_of_lt_toNat hlt),
    Memory.read_write hwf.1 _ _⟩
  rw [handle_rx (active_of_headerComplete hs) hx, rxByte_payload (s := { s with rx := rest }) hs hlt]
  rfl

theorem drop_three_toList (v : Vector Byte 8) : v.toList.drop 3 = [v[3], v[4], v[5], v[6], v[7]] := by
  apply List.ext_getElem
  · simp
  · intro i hi _
    match i with
    | 0 | 1 | 2 | 3 | 4 => simp
    | _ + 5 => simp at hi

/-- The region the checksum covers, byte by byte (R85, R169). -/
theorem checksumRegion_eq (s : State) :
    s.checksumRegion =
      [s.decHdr[3], s.decHdr[4], s.decHdr[5], s.decHdr[6], s.decHdr[7]] ++
        Memory.readBytes s.decPayload s.decLen.toNat := by
  rw [State.checksumRegion, drop_three_toList]

/-- Settles O29, by what the checksum byte does and the bytes of the region. -/
theorem rxChecksumCompletesBody : Obligations.RxChecksumCompletesBody := by
  unfold Obligations.RxChecksumCompletesBody
  intro s b rest hs hx heq
  refine ⟨crc8 s.checksumRegion, congrArg crc8 (checksumRegion_eq s), ?_⟩
  rw [handle_rx (active_of_headerComplete hs) hx, rxByte_checksum (s := { s with rx := rest }) hs heq]
  rfl

/-! ### Timeout and passing time (R176, R177, R241) -/

/-- Settles O30: Timeout records the phase of the active state it ends. -/
theorem timeoutFailsActivePhase : Obligations.TimeoutFailsActivePhase := by
  unfold Obligations.TimeoutFailsActivePhase
  intro s
  refine ⟨fun hinact => ?_, fun p hp => ?_⟩
  · exact congrArg Host.Outcome.next (timeoutEvent_inactive (decInactive_iff.mp hinact))
  · have hphase : s.decState.active = true ∧ s.decState.failPhase = p := by
      obtain ⟨hs, rfl⟩ | ⟨hs, rfl⟩ | ⟨hs, rfl⟩ := hp
      all_goals
        rw [hs]
        exact ⟨rfl, rfl⟩
    obtain ⟨hact, rfl⟩ := hphase
    exact congrArg Host.Outcome.next (timeoutEvent_active hact)

/-- Timeout disarms the timer, whatever it held. -/
theorem timeoutEvent_timer (h : s.decState.active = true) (o : Option Nat) :
    timeoutEvent { s with timer := o } = timeoutEvent s := by
  rw [timeoutEvent_active h, timeoutEvent_active (s := { s with timer := o }) h]
  rfl

/-- Settles O31, by the deadline of each active phase. -/
theorem deadlineTimerRaisesTimeout : Obligations.DeadlineTimerRaisesTimeout := by
  unfold Obligations.DeadlineTimerRaisesTimeout
  intro s d elapsed deadline
  refine ⟨fun ht hphase => ?_, fun ht => congrArg Host.Outcome.next (elapseEvent_disarmed (.inl ht))⟩
  have hdeadline : s.decState.active = true ∧ s.decState.deadline = some deadline := by
    obtain ⟨hs, rfl⟩ | ⟨hs, rfl⟩ | ⟨hs, rfl⟩ := hphase
    all_goals
      rw [hs]
      exact ⟨rfl, rfl⟩
  obtain ⟨hact, hd⟩ := hdeadline
  rw [handle, handle, elapseEvent_armed ht hd, timeoutEvent_timer hact, apply_ite Host.Outcome.next]

/-! ### What DEC shows (R163, R171) and what it leaves alone (R126, R143) -/

/-- Settles O36: the invariant clears the fields and the flags, and no port shows the buffer. -/
theorem failedDecodeShowsNoResponse : Obligations.FailedDecodeShowsNoResponse := by
  unfold Obligations.FailedDecodeShowsNoResponse
  intro s h hs
  have hbody : s.decState ≠ .bodyComplete := by simp [hs]
  obtain ⟨hflags, hfid, hlen⟩ := h.fields (by simp [hs]) hbody
  obtain ⟨-, -, hcrcOk, hfidMatch, hstatusOk⟩ := h.result.2 hbody
  exact ⟨hfid, hlen, hflags, fun _ => portDecPayload_outside (.inl hbody), hcrcOk, hfidMatch, hstatusOk, if_neg hbody⟩

/-- Settles O37: outside BodyComplete the flag is 0, and there it is the conjunction of the two tests. -/
theorem statusOkMeansValidResponse : Obligations.StatusOkMeansValidResponse := by
  unfold Obligations.StatusOkMeansValidResponse
  intro s h
  have hclear (hne : s.decState ≠ .bodyComplete) : s.decStatusOk = false := by
    obtain ⟨-, -, -, -, hstatus⟩ := h.result.2 hne
    exact hstatus
  refine ⟨fun hok => ?_, fun hs => hclear (by simp [hs])⟩
  have hs : s.decState = .bodyComplete := by
    by_contra hne
    simp [hclear hne] at hok
  obtain ⟨hcalc, hcrc, hfid, hstatus⟩ := h.result.1 hs
  rw [hok] at hstatus
  obtain ⟨hcrcOk, hfidMatch⟩ := Bool.and_eq_true_iff.mp hstatus.symm
  refine ⟨hs, hcrcOk, ?_, by simp [State.response, hs], ?_⟩
  · exact eq_of_beq (hfid.symm.trans hfidMatch)
  · exact (eq_of_beq (hcrc.symm.trans hcrcOk)).symm.trans hcalc

/-- Settles O39: none of these events is a command or Reset, so each is a run of the decoder's moves. -/
theorem decEventsTouchOnlyDec : Obligations.DecEventsTouchOnlyDec := by
  unfold Obligations.DecEventsTouchOnlyDec
  intro e s he
  obtain ⟨t, ht⟩ := handle_next e s
  refine ⟨t, ht, ?_⟩
  obtain ⟨w, rfl, -⟩ | ⟨rfl, -⟩ | hm := handle_cases ht
  · simp at he
  · simp at he
  · exact decMoves_outsideDecUnchanged hm

end Sys2Proof.Machine
end

section
/-!
PROOFS. The preamble scan over many bytes (42_decoder.md R166, R170): the tail is the last 64 bytes seen, so the scan
ends exactly where the preamble is a suffix of all that was seen.
-/

namespace Sys2Proof.Machine

variable {s : State}

/-! ### `last_n` (R10) -/

theorem lastN_suffix (l : List Byte) (n : Nat) : lastN l n <:+ l := List.drop_suffix _ _

/-- A sequence of at most `n` bytes ends `last_n` exactly when it ends the whole. -/
theorem suffix_lastN_iff {p : List Byte} {n : Nat} (hp : p.length ≤ n) (l : List Byte) : p <:+ lastN l n ↔ p <:+ l := by
  refine ⟨fun h => h.trans (lastN_suffix l n), fun h => ?_⟩
  have hle := h.length_le
  refine List.suffix_of_suffix_length_le h (lastN_suffix l n) ?_
  simp only [lastN, List.length_drop]
  omega

/-- Bytes that are past `last_n` stay past it. -/
theorem lastN_lastN_append (l m : List Byte) (n : Nat) : lastN (lastN l n ++ m) n = lastN (l ++ m) n := by
  have hdrop : lastN l n ++ m = (l ++ m).drop (l.length - n) := (List.drop_append_of_le_length (Nat.sub_le _ _)).symm
  rw [hdrop]
  simp only [lastN, List.drop_drop, List.length_drop, List.length_append]
  congr 1
  omega

/-! ### Where the preamble can end (R81) -/

/-- The preamble ends only with `>`. -/
theorem not_preamble_suffix_concat {b : Byte} (hb : b ≠ 0x3E#8) (l : List Byte) : ¬ responsePreamble <:+ l ++ [b] := by
  intro h
  have hlast := h.getLast (by simp [responsePreamble])
  exact hb (by simpa [responsePreamble] using hlast.symm)

/-- A byte other than `>` brings no preamble into a sequence that had none. -/
theorem not_preamble_infix_concat {b : Byte} (hb : b ≠ 0x3E#8) {l : List Byte} (h : ¬ responsePreamble <:+: l) :
    ¬ responsePreamble <:+: l ++ [b] := by
  rw [List.infix_concat_iff]
  exact not_or.mpr ⟨not_preamble_suffix_concat hb l, h⟩

/-! ### The scan (R166, R170) -/

theorem State.withTail_withTail (s : State) (l m : List Byte) : (s.withTail l).withTail m = s.withTail m := rfl

/-- Finding the preamble discards the tail, whatever it was. -/
theorem State.preambleFound_withTail (s : State) (l : List Byte) : (s.withTail l).preambleFound = s.preambleFound := rfl

/-- One more byte, with the bytes before it in the tail, ends the scan exactly when the preamble is a suffix of all. -/
theorem rxByte_withTail (hs : s.decState = .scanning) (seen : List Byte) (b : Byte) :
    rxByte b (s.withTail (lastN seen tailCap)) =
      if responsePreamble <:+ seen ++ [b] then s.preambleFound else s.withTail (lastN (seen ++ [b]) tailCap) := by
  have hcat : lastN (lastN seen tailCap ++ [b]) tailCap = lastN (seen ++ [b]) tailCap := lastN_lastN_append _ _ _
  have hiff := suffix_lastN_iff (p := responsePreamble) (n := tailCap) (by decide) (seen ++ [b])
  rw [← hcat] at hiff
  split
  case isTrue h =>
    rw [rxByte_scanning_found (s := s.withTail (lastN seen tailCap)) hs (hiff.mpr h), State.preambleFound_withTail]
  case isFalse h =>
    rw [rxByte_scanning_more (s := s.withTail (lastN seen tailCap)) hs (mt hiff.mp h), State.withTail_withTail, ← hcat]
    rfl

/-- Bytes that bring no preamble leave DEC in Scanning, with the last 64 bytes seen in the tail. -/
theorem rxBytes_scan {seen g : List Byte} (hs : s.decState = .scanning) (hx : s.rx = [])
    (h : ¬ responsePreamble <:+: seen ++ g) :
    rxBytes g (s.withTail (lastN seen tailCap)) = s.withTail (lastN (seen ++ g) tailCap) := by
  induction g generalizing seen with
  | nil => simp
  | cons b rest ih =>
    have hmore : ¬ responsePreamble <:+ seen ++ [b] := by
      intro hsuf
      have hprefix : seen ++ [b] <+: seen ++ b :: rest := ⟨rest, by simp⟩
      exact h (hsuf.isInfix.trans hprefix.isInfix)
    rw [List.append_cons] at h ⊢
    rw [rxBytes_cons_active (s := s.withTail (lastN seen tailCap)) (active_of_scanning hs) hx, rxByte_withTail hs,
      if_neg hmore, ih h]

/-- Bytes without a preamble, from an empty tail on. -/
theorem rxBytes_noise {g : List Byte} (hs : s.decState = .scanning) (htail : s.decTail = []) (hx : s.rx = [])
    (h : ¬ responsePreamble <:+: g) : rxBytes g s = s.withTail (lastN g tailCap) := by
  have hempty : s.withTail (lastN [] tailCap) = s := by
    show s.withTail [] = s
    rw [← htail]
    rfl
  have hscan := rxBytes_scan (seen := []) hs hx h
  rwa [hempty] at hscan

/-- Bytes without a preamble and then the preamble end the scan at its last byte. -/
theorem rxBytes_noise_preamble {g : List Byte} (hs : s.decState = .scanning) (htail : s.decTail = []) (hx : s.rx = [])
    (h : ¬ responsePreamble <:+: g) : rxBytes (g ++ responsePreamble) s = s.preambleFound := by
  have hsplit : g ++ responsePreamble = (g ++ [0x24#8] ++ [0x58#8]) ++ [0x3E#8] := by simp [responsePreamble]
  have hnone : ¬ responsePreamble <:+: g ++ [0x24#8] ++ [0x58#8] :=
    not_preamble_infix_concat (by decide) (not_preamble_infix_concat (by decide) h)
  rw [hsplit, rxBytes_concat (rxBytes_noise hs htail hx hnone) (active_of_scanning hs) hx, rxByte_withTail hs,
    if_pos (hsplit ▸ List.suffix_append g responsePreamble)]

/-- Settles O32, by the scan up to the preamble and through it. -/
theorem scanLeavesAtFirstPreamble : Obligations.ScanLeavesAtFirstPreamble := by
  unfold Obligations.ScanLeavesAtFirstPreamble
  intro s g hs htail hx h
  constructor
  · rw [handle_wire, rxBytes_noise hs htail hx h]
    rfl
  · refine ⟨s.preambleFound, ?_, rfl, rfl, rfl, hx, ?_, outsideDecUnchanged_refl s⟩
    · rw [handle_wire]
      exact congrArg Host.Outcome.next (rxBytes_noise_preamble hs htail hx h)
    · simp [State.preambleFound, take_three_toList]

end Sys2Proof.Machine
end

section
/-!
PROOFS. The header and the body over many bytes (42_decoder.md R167 to R169, R178): header bytes fill DEC_HDR in order,
payload bytes fill DEC_PAYLOAD in order, and each part ends at its last byte.
-/

namespace Sys2Proof.Machine

variable {s : State}

/-- A sequence that is one longer than `n` is `n` bytes and a last one. -/
theorem exists_concat_of_length {bs : List Byte} {n : Nat} (h : bs.length = n + 1) :
    ∃ init b, bs = init ++ [b] ∧ init.length = n := by
  have hne : bs ≠ [] := List.ne_nil_of_length_eq_add_one h
  exact ⟨bs.dropLast, bs.getLast hne, (List.dropLast_append_getLast hne).symm, by simp [h]⟩

/-! ### Header bytes (R167) -/

/-- DEC_HDR with bytes stored from a position on. -/
def storeBytes (v : Vector Byte 8) (n : Nat) (bs : List Byte) : Vector Byte 8 :=
  match bs with
  | [] => v
  | b :: rest => storeBytes (v.setIfInBounds n b) (n + 1) rest

theorem storeBytes_concat (v : Vector Byte 8) (n : Nat) (bs : List Byte) (b : Byte) :
    storeBytes v n (bs ++ [b]) = (storeBytes v n bs).setIfInBounds (n + bs.length) b := by
  induction bs generalizing v n with
  | nil => rfl
  | cons c rest ih => rw [List.cons_append, storeBytes, ih, storeBytes, List.length_cons, Nat.add_assoc, Nat.add_comm 1]

/-- Header bytes before the last one are stored from the current position on. -/
theorem rxBytes_headerRead {n : Nat} {bs : List Byte} (hs : s.decState = .headerRead) (hx : s.rx = [])
    (hc : s.decHcnt = BitVec.ofNat 4 n) (hn : n + bs.length ≤ 7) :
    rxBytes bs s = s.withHeader (storeBytes s.decHdr n bs) (n + bs.length) := by
  induction bs using List.reverseRecOn with
  | nil =>
    rw [List.length_nil, Nat.add_zero, State.withHeader, ← hc]
    rfl
  | append_singleton init b ih =>
    rw [List.length_append, List.length_singleton] at hn ⊢
    rw [rxBytes_concat (ih (by omega)) (active_of_headerRead hs) hx, storeBytes_concat]
    exact rxByte_headerRead_more (s := s.withHeader _ _) hs (by omega) rfl b

/-- The missing header bytes complete the header. -/
theorem rxBytes_headerRead_done {n : Nat} {bs : List Byte} (hs : s.decState = .headerRead) (hx : s.rx = [])
    (hc : s.decHcnt = BitVec.ofNat 4 n) (hn : n < 8) (hlen : n + bs.length = 8) :
    rxBytes bs s = (s.withHeader (storeBytes s.decHdr n bs) 8).headerDone := by
  obtain ⟨init, b, rfl, hinit⟩ := exists_concat_of_length (n := 7 - n) (bs := bs) (by omega)
  have hseven : n + init.length = 7 := by omega
  rw [rxBytes_concat (rxBytes_headerRead hs hx hc hseven.le) (active_of_headerRead hs) hx, storeBytes_concat, hseven]
  exact rxByte_headerRead_last (s := s.withHeader _ _) hs rfl b

/-! ### Payload bytes and the checksum (R168, R169) -/

/-- DEC_PAYLOAD with bytes stored from an index on. -/
def Memory.writeBytes (m : List Host.Cell) (i : Nat) (bs : List Byte) : List Host.Cell :=
  match bs with
  | [] => m
  | b :: rest => Memory.writeBytes (Memory.write m i b) (i + 1) rest

theorem Memory.writeBytes_concat (m : List Host.Cell) (i : Nat) (bs : List Byte) (b : Byte) :
    Memory.writeBytes m i (bs ++ [b]) = Memory.write (Memory.writeBytes m i bs) (i + bs.length) b := by
  induction bs generalizing m i with
  | nil => rfl
  | cons c rest ih =>
    rw [List.cons_append, Memory.writeBytes, ih, Memory.writeBytes, List.length_cons, Nat.add_assoc, Nat.add_comm 1]

/-- Bytes stored behind the first `n` are read back behind them. -/
theorem Memory.readBytes_writeBytes {m : List Host.Cell} {n : Nat} {bs : List Byte} (hm : Memory.wf m)
    (hcap : n + bs.length ≤ payloadCap) :
    Memory.readBytes (Memory.writeBytes m n bs) (n + bs.length) = Memory.readBytes m n ++ bs := by
  induction bs generalizing m n with
  | nil => simp [Memory.writeBytes]
  | cons b rest ih =>
    rw [List.length_cons] at hcap ⊢
    have hsum : n + (rest.length + 1) = n + 1 + rest.length := by omega
    rw [Memory.writeBytes, hsum, ih (Memory.write_wf b hm (by omega)) (by omega), Memory.readBytes_succ,
      Memory.readBytes_write_above hm.1 b le_rfl, Memory.read_write hm.1, if_pos rfl]
    simp

/-- Payload bytes that are still due are stored from DEC_PCNT on. -/
theorem rxBytes_payload {bs : List Byte} (hs : s.decState = .headerComplete) (hx : s.rx = [])
    (h : s.decPcnt.toNat + bs.length ≤ s.decLen.toNat) :
    rxBytes bs s =
      s.withPayload (Memory.writeBytes s.decPayload s.decPcnt.toNat bs) (s.decPcnt.toNat + bs.length) := by
  induction bs using List.reverseRecOn with
  | nil => simp [Memory.writeBytes, State.withPayload]
  | append_singleton init b ih =>
    rw [List.length_append, List.length_singleton] at h ⊢
    have hcount : (BitVec.ofNat 16 (s.decPcnt.toNat + init.length)).toNat = s.decPcnt.toNat + init.length := by
      have hlen := s.decLen.isLt
      rw [BitVec.toNat_ofNat]
      omega
    have hdue : (BitVec.ofNat 16 (s.decPcnt.toNat + init.length)).toNat < s.decLen.toNat := by omega
    rw [rxBytes_concat (ih (by omega)) (active_of_headerComplete hs) hx, Memory.writeBytes_concat,
      rxByte_payload (s := s.withPayload _ _) hs hdue]
    simp only [State.withPayload, hcount, Nat.add_assoc]

/-- The missing payload bytes and one checksum byte complete the body. -/
theorem rxBytes_body {bs : List Byte} (hs : s.decState = .headerComplete) (hx : s.rx = [])
    (h : s.decPcnt.toNat + bs.length = s.decLen.toNat) (chk : Byte) :
    rxBytes (bs ++ [chk]) s =
      rxChecksum chk (s.withPayload (Memory.writeBytes s.decPayload s.decPcnt.toNat bs) s.decLen.toNat) := by
  rw [rxBytes_concat (rxBytes_payload hs hx h.le) (active_of_headerComplete hs) hx, h]
  exact rxByte_checksum (s := s.withPayload _ _) hs (by simp [State.withPayload]) chk

/-- Settles O38: Timeout ends any active phase, and each part of the frame ends at its last byte. -/
theorem decodeTerminates : Obligations.DecodeTerminates := by
  unfold Obligations.DecodeTerminates
  intro s hinv hx
  refine ⟨fun hact => ⟨timeoutEvent s, rfl, ?_⟩, fun bs hs hlen => ?_, fun bs hs hlen => ?_⟩
  · rw [timeoutEvent_active hact]
    rfl
  · obtain ⟨-, hread, -⟩ := hinv.header
    obtain ⟨-, hcount, -⟩ := hread hs
    refine ⟨_, handle_wire _ s, ?_⟩
    rw [rxBytes_headerRead_done (n := s.decHcnt.toNat) hs hx (by simp) (by omega) (by omega)]
    exact ⟨rfl, hx⟩
  · obtain ⟨hread, -⟩ := hinv.body
    have hcount := hread hs
    obtain ⟨init, b, rfl, hinit⟩ := exists_concat_of_length hlen
    refine ⟨_, handle_wire _ s, ?_⟩
    rw [rxBytes_body hs hx (by omega)]
    exact ⟨rfl, hx⟩

end Sys2Proof.Machine
end

section
/-!
PROOFS. What the frame rows do to the decoder (30_encoding.md R81, R87, R91; log 3).
-/

namespace Sys2Proof.Machine

variable {s : State}

/-- Two bytes that are not `>` only enter the tail, whatever it held. -/
theorem rxBytes_scanning_pair (hs : s.decState = .scanning) (hx : s.rx = []) {a b : Byte} (ha : a ≠ 0x3E#8)
    (hb : b ≠ 0x3E#8) : rxBytes [a, b] s = s.withTail (lastN (s.decTail ++ [a] ++ [b]) tailCap) := by
  have hmore : ¬ responsePreamble <:+ lastN (s.decTail ++ [a]) tailCap := fun h =>
    not_preamble_suffix_concat ha _ (h.trans (lastN_suffix _ _))
  have hfirst : rxBytes [a] s = s.withTail (lastN (s.decTail ++ [a]) tailCap) := by
    rw [rxBytes_cons_active (active_of_scanning hs) hx, rxBytes_nil, rxByte_scanning_more hs hmore]
  have hsecond := rxBytes_concat hfirst (active_of_scanning hs) hx b
  rwa [rxByte_withTail hs, if_neg (not_preamble_suffix_concat hb _)] at hsecond

/-- After `$X` the third byte ends the scan exactly when it completes the preamble. -/
theorem rxBytes_scanning_triple (hs : s.decState = .scanning) (hx : s.rx = []) (b : Byte) :
    rxBytes [0x24#8, 0x58#8, b] s =
      if responsePreamble <:+ s.decTail ++ [0x24#8, 0x58#8] ++ [b] then s.preambleFound
      else s.withTail (lastN (s.decTail ++ [0x24#8, 0x58#8, b]) tailCap) := by
  have hpair := rxBytes_scanning_pair (a := 0x24#8) (b := 0x58#8) hs hx (by decide) (by decide)
  have hthird := rxBytes_concat hpair (active_of_scanning hs) hx b
  rw [rxByte_withTail hs] at hthird
  simpa using hthird

/-- The request preamble is noise to the scan (R91). -/
theorem rxBytes_requestPreamble (hs : s.decState = .scanning) (hx : s.rx = []) :
    rxBytes requestPreamble s = s.withTail (lastN (s.decTail ++ requestPreamble) tailCap) :=
  (rxBytes_scanning_triple hs hx 0x3C#8).trans (if_neg (not_preamble_suffix_concat (by decide) _))

/-- The response preamble ends the scan (R166). -/
theorem rxBytes_responsePreamble (hs : s.decState = .scanning) (hx : s.rx = []) :
    rxBytes responsePreamble s = s.preambleFound :=
  (rxBytes_scanning_triple hs hx 0x3E#8).trans (if_pos ⟨s.decTail, by simp [responsePreamble]⟩)

/-- Settles O42, by the bytes of each row. -/
theorem frameRowsDriveDecoder : Obligations.FrameRowsDriveDecoder := by
  unfold Obligations.FrameRowsDriveDecoder
  intro s
  refine ⟨fun hs hx => ⟨⟨s.preambleFound, ?_, rfl, rfl, hx⟩, ?_⟩, fun hs hx hc => ?_, fun hinact => ?_⟩
  · exact congrArg Host.Outcome.next (rxBytes_responsePreamble hs hx)
  · exact congrArg Host.Outcome.next (rxBytes_requestPreamble hs hx)
  · refine congrArg Host.Outcome.next ((rxBytes_headerRead (n := 4) hs hx hc (by decide)).trans ?_)
    simp [le16, fidStatusId, storeBytes, State.withHeader, setIfInBounds_eq_set]
  · exact congrArg Host.Outcome.next (rxBytes_inactive (decInactive_iff.mp hinact) _)

end Sys2Proof.Machine
end

section
/-!
PROOFS. A whole response frame through the decoder (42_decoder.md R162, R170, R172 to R175): after any noise it is held
field by field, and it is the Response, whether its last byte is the checksum or not.
-/

namespace Sys2Proof.Machine

variable {s t : State}

/-! ### The Response (R162) -/

/-- In BodyComplete the Response is read from the registers of DEC. -/
theorem response_of_bodyComplete (hs : s.decState = .bodyComplete) :
    s.response =
      some
        { fid := s.decFid, payload := Memory.readBytes s.decPayload s.decLen.toNat, flags := s.decFlags
          crcCalc := s.decCrcCalc, crcRx := s.decCrcRx, crcOk := s.decCrcOk, fidMatch := s.decFidMatch
          statusOk := s.decStatusOk } := by
  have hpayload : (List.range s.decLen.toNat).map s.portDecPayload = Memory.readBytes s.decPayload s.decLen.toNat :=
    List.map_congr_left fun i hi => portDecPayload_inside hs (List.mem_range.mp hi)
  rw [State.response, if_pos hs, hpayload]

/-- The Response of a frame with the given fields and trailing byte, when the id `expect` is expected (R36, R162). -/
def frameResponse (expect fid : Half) (flags chk : Byte) (payload : List Byte) : Response :=
  { fid := fid, payload := payload, flags := flags, crcCalc := crc8 (frameRegion flags fid payload), crcRx := chk
    crcOk := decide (crc8 (frameRegion flags fid payload) = chk), fidMatch := decide (fid = expect)
    statusOk := decide (crc8 (frameRegion flags fid payload) = chk) && decide (fid = expect) }

/-- The checksum byte makes the held fields the Response, whatever it is (R169, R172). -/
theorem response_rxChecksum {payload : List Byte}
    (hpayload : Memory.readBytes s.decPayload s.decLen.toNat = payload)
    (hregion : s.checksumRegion = frameRegion s.decFlags s.decFid payload) (chk : Byte) :
    (rxChecksum chk s).response = some (frameResponse s.decExpect s.decFid s.decFlags chk payload) := by
  rw [response_of_bodyComplete rfl, frameResponse, ← hregion, ← hpayload]
  rfl

/-! ### The header (R167) -/

/-- From `s` the header of a frame with the given fields has been received, and no payload byte (R167). -/
structure HeaderHeld (s t : State) (flags : Byte) (fid len : Half) : Prop where
  decState : t.decState = .headerComplete
  rx : t.rx = []
  decPcnt : t.decPcnt = 0#16
  decHdr : t.decHdr.toList.drop 3 = [flags] ++ le16 fid ++ le16 len
  decFlags : t.decFlags = flags
  decFid : t.decFid = fid
  decLen : t.decLen = len
  decExpect : t.decExpect = s.decExpect
  decPayload : t.decPayload = s.decPayload

/-- Bytes stored from position 3 to the end. -/
theorem storeBytes_three (v : Vector Byte 8) (a b c d e : Byte) :
    storeBytes v 3 [a, b, c, d, e] = #v[v[0], v[1], v[2], a, b, c, d, e] := by
  ext i hi
  match i with
  | 0 | 1 | 2 | 3 | 4 | 5 | 6 | 7 => simp [storeBytes]

/-- The five bytes after the preamble are the header's fields. -/
theorem headerHeld_rxBytes (hs : s.decState = .headerRead) (hx : s.rx = []) (hc : s.decHcnt = 3#4) (flags : Byte)
    (fid len : Half) : HeaderHeld s (rxBytes ([flags] ++ le16 fid ++ le16 len) s) flags fid len := by
  have hrun := rxBytes_headerRead_done (n := 3) (bs := [flags] ++ le16 fid ++ le16 len) hs hx hc (by decide) rfl
  rw [hrun, show [flags] ++ le16 fid ++ le16 len = [flags, _, _, _, _] from rfl, storeBytes_three]
  exact
    { decState := rfl, rx := hx, decPcnt := rfl, decHdr := rfl, decFlags := rfl, decFid := fromLe16_le16 fid
      decLen := fromLe16_le16 len, decExpect := rfl, decPayload := rfl }

/-! ### The body (R168, R169) -/

/-- DEC holds a whole response frame with the given fields and trailing byte. -/
structure FrameHeld (t : State) (expect fid : Half) (flags chk : Byte) (payload : List Byte) : Prop where
  decState : t.decState = .bodyComplete
  decExpect : t.decExpect = expect
  decLen : t.decLen.toNat = payload.length
  response : t.response = some (frameResponse expect fid flags chk payload)

/-- Once the header is held, the payload and the trailing byte complete the frame. -/
theorem HeaderHeld.frameHeld {flags : Byte} {fid : Half} {payload : List Byte}
    (h : HeaderHeld s t flags fid (BitVec.ofNat 16 payload.length)) (hlen : payload.length ≤ 65535)
    (hwf : Memory.wf s.decPayload) (chk : Byte) :
    FrameHeld (rxBytes (payload ++ [chk]) t) s.decExpect fid flags chk payload ∧
      (rxBytes (payload ++ [chk]) t).rx = [] := by
  have hcount : t.decLen.toNat = payload.length := by
    rw [h.decLen]
    exact Nat.mod_eq_of_lt (by omega)
  have hread : Memory.readBytes (Memory.writeBytes s.decPayload 0 payload) payload.length = payload := by
    simpa using Memory.readBytes_writeBytes (n := 0) (bs := payload) hwf (by simpa [payloadCap] using hlen)
  have hrun := rxBytes_body (bs := payload) h.decState h.rx (by simp [h.decPcnt, hcount]) chk
  rw [h.decPcnt, h.decPayload, hcount] at hrun
  rw [hrun]
  refine ⟨⟨rfl, h.decExpect, hcount, ?_⟩, h.rx⟩
  have hpayload : Memory.readBytes (Memory.writeBytes s.decPayload 0 payload) t.decLen.toNat = payload := by
    rw [hcount, hread]
  rw [← h.decExpect, ← h.decFid, ← h.decFlags]
  refine response_rxChecksum (s := t.withPayload _ _) hpayload ?_ chk
  show t.decHdr.toList.drop 3 ++ _ = frameRegion t.decFlags t.decFid payload
  rw [h.decHdr, h.decFlags, h.decFid, frameRegion]
  exact congrArg _ hpayload

/-- Noise without the preamble, then a response frame: DEC holds the frame. -/
theorem frameHeld_rxBytes (hs : s.decState = .scanning) (htail : s.decTail = []) (hx : s.rx = [])
    (hwf : Memory.wf s.decPayload) {noise payload : List Byte} (hnoise : ¬ responsePreamble <:+: noise)
    (hlen : payload.length ≤ 65535) (flags chk : Byte) (fid : Half) :
    FrameHeld (rxBytes (noise ++ responseFrame flags fid payload chk) s) s.decExpect fid flags chk payload ∧
      (rxBytes (noise ++ responseFrame flags fid payload chk) s).rx = [] := by
  have hbytes : noise ++ responseFrame flags fid payload chk =
      (noise ++ responsePreamble) ++ ([flags] ++ le16 fid ++ le16 (BitVec.ofNat 16 payload.length)) ++
        (payload ++ [chk]) := by
    simp [responseFrame, frameRegion]
  rw [hbytes, rxBytes_append _ (payload ++ [chk]), rxBytes_append (noise ++ responsePreamble),
    rxBytes_noise_preamble hs htail hx hnoise]
  exact (headerHeld_rxBytes (s := s.preambleFound) rfl hx rfl flags fid _).frameHeld hlen hwf chk

/-- Bytes behind the frame stay pending, and the frame stays held (R175). -/
theorem FrameHeld.rxBytes_after {expect fid : Half} {flags chk : Byte} {payload : List Byte}
    (h : FrameHeld t expect fid flags chk payload) (hx : t.rx = []) (after : List Byte) :
    FrameHeld (rxBytes after t) expect fid flags chk payload ∧ (rxBytes after t).rx = after := by
  rw [rxBytes_inactive (by rw [h.decState]; rfl), hx]
  exact ⟨⟨h.decState, h.decExpect, h.decLen, h.response⟩, rfl⟩

/-! ### A whole decode -/

/-- DEC_START in an inactive state begins a scan for the expected id, and touches nothing outside DEC (R164). -/
theorem handle_decodeStart (h : Spec.DecInactive s) (expect : Half) :
    ∃ t, handle (Spec.decodeStart expect) s = .next t ∧ t.decState = .scanning ∧ t.decTail = [] ∧ t.rx = s.rx ∧
      t.decExpect = expect ∧ t.decPayload = s.decPayload ∧ Spec.OutsideDecUnchanged s t :=
  ⟨_, ((handle_decStart 0#16 expect s).trans (if_pos rfl)).trans (execDecStart_inactive expect (decInactive_iff.mp h)),
    rfl, rfl, rfl, rfl, rfl, outsideDecUnchanged_refl s⟩

/-- Settles O33, by the frame that DEC holds before the bytes behind it arrive. -/
theorem decodeYieldsResponseAfterNoise : Obligations.DecodeYieldsResponseAfterNoise := by
  unfold Obligations.DecodeYieldsResponseAfterNoise
  intro s expect fid flags chk noise payload after hinact hx hlen hnoise hwf
  obtain ⟨t, ht, hs, htail, hrx, hexpect, hmem, hout⟩ := handle_decodeStart hinact expect
  obtain ⟨hframe, hnone⟩ := frameHeld_rxBytes hs htail (hrx.trans hx) (hmem ▸ hwf) hnoise hlen flags chk fid
  obtain ⟨hheld, hafter⟩ := hframe.rxBytes_after hnone after
  rw [hexpect, ← rxBytes_append] at hheld
  rw [← rxBytes_append] at hafter
  refine ⟨_, ?_, hheld.decState, hafter, hheld.decExpect, hheld.decLen, hheld.response,
    outsideDecUnchanged_trans hout (decMoves_outsideDecUnchanged (rxBytes_moves _ t))⟩
  rw [handleAll_cons_next ht, handleAll_cons_next (handle_wire _ t)]
  rfl

/-- A request frame with its direction byte changed is the response frame of the same fields (R174). -/
theorem set_direction_requestFrame (fid : Half) (payload : List Byte) :
    (requestFrame fid payload).set 2 0x3E#8 =
      responseFrame 0x00#8 fid payload (crc8 (frameRegion 0x00#8 fid payload)) := rfl

/-- Encoding a payload appends its request frame and leaves DEC as it is. -/
theorem handleAll_encodeEvents_dec (fid : Half) {payload : List Byte} (hidle : s.encBusy = false)
    (hlen : payload.length ≤ 65535) :
    ∃ t, handleAll (Spec.encodeEvents fid payload) s = .next t ∧ t.tx = s.tx ++ requestFrame fid payload ∧
      t.decState = s.decState ∧ t.rx = s.rx ∧ t.decPayload = s.decPayload :=
  ⟨_, handleAll_encodeEvents fid hidle hlen, rfl, rfl, rfl, rfl⟩

/-- Settles O34: the frame emitted is a request frame, and O33 decodes what the changed byte makes of it. -/
theorem encodeThenDecodeRoundTrip : Obligations.EncodeThenDecodeRoundTrip := by
  unfold Obligations.EncodeThenDecodeRoundTrip
  intro s fid payload hidle hinact hx hlen hwf
  obtain ⟨t, ht, htx, hstate, hrx, hmem⟩ := handleAll_encodeEvents_dec fid hidle hlen
  have hinact' : Spec.DecInactive t := by rwa [decInactive_iff, hstate, ← decInactive_iff]
  obtain ⟨u, hu, hs, -, -, hcount, hresp, -⟩ :=
    decodeYieldsResponseAfterNoise t fid fid 0x00#8 (crc8 (frameRegion 0x00#8 fid payload)) [] payload [] hinact'
      (hrx.trans hx) hlen (by decide) (hmem ▸ hwf)
  rw [List.nil_append, List.append_nil, ← set_direction_requestFrame] at hu
  rw [response_of_bodyComplete hs, Option.some.injEq, Response.mk.injEq] at hresp
  obtain ⟨hfid, hpayload, -, -, -, hcrc, hmatch, hstatus⟩ := hresp
  refine ⟨requestFrame fid payload, t, u, ht, htx, hu, hs, hfid, hcount, fun i hi => ?_, ?_, ?_, ?_⟩
  · rw [portDecPayload_inside hs (by omega), ← hpayload, hcount]
    simp [Memory.readBytes, hi]
  · simpa using hcrc
  · simpa using hmatch
  · simpa using hstatus

end Sys2Proof.Machine
end

section
/-!
PROOFS. The RC commands one at a time (43_rc_channels.md R202 to R205), and the serialized registers (R206).
-/

namespace Sys2Proof.Machine

/-- A register file after a write to one register, read at every index. -/
theorem getElem_set_fin (v : Vector Half 16) {n : Nat} (hn : n < 16) (a : Half) (i : Fin 16) :
    (v.set n a hn)[i] = if i.val = n then a else v[i] := by
  simp only [Fin.getElem_fin, Vector.getElem_set, eq_comm (a := n)]

/-! ### RC_SET (R202) -/

/-- Settles O43: the channel written is the one the index names, with no check on the value. -/
theorem rcSetWritesOneChannel : Obligations.RcSetWritesOneChannel := by
  unfold Obligations.RcSetWritesOneChannel
  intro index value s
  refine ⟨?_, fun hi hhi => ?_, _, rfl, getElem_set_fin s.rc index.isLt value⟩
  · exact (runCommand_rcSet 0#12 index value s).trans (if_pos rfl)
  · exact (runCommand_rcSet hi index value s).trans (if_neg hhi)

/-! ### The load commands (R203 to R205) -/

theorem handle_rcLoadBegin_word (s : State) : handle (.cmd (Spec.word 0x31#8 0#32)) s = execRcLoadBegin s :=
  (runCommand_rcLoadBegin 0#32 s).trans (if_pos rfl)

theorem handle_rcLoadVal_word (value : Half) (s : State) :
    handle (.cmd (Spec.word 0x32#8 (0#16 ++ value))) s = execRcLoadVal value s :=
  (runCommand_rcLoadVal 0#16 value s).trans (if_pos rfl)

theorem handle_rcLoadEnd_word (s : State) : handle (.cmd (Spec.word 0x33#8 0#32)) s = execRcLoadEnd s :=
  (runCommand_rcLoadEnd 0#32 s).trans (if_pos rfl)

/-- Settles O44: one clause for each way a load command can go. -/
theorem rcLoadCommands : Obligations.RcLoadCommands := by
  unfold Obligations.RcLoadCommands
  intro s
  refine ⟨execRcLoadBegin_closed, execRcLoadBegin_open, fun value => ⟨fun hl hc => ?_, execRcLoadVal_full value,
    execRcLoadVal_closed value, handle_rcLoadVal_word value s, fun hi hhi => ?_⟩, fun hl => ?_, execRcLoadEnd_closed,
    handle_rcLoadBegin_word s, handle_rcLoadEnd_word s, fun arg harg => ⟨?_, ?_⟩⟩
  · exact ⟨_, execRcLoadVal_stage value hl hc, getElem_set_fin s.rcStage hc value⟩
  · exact (runCommand_rcLoadVal hi value s).trans (if_neg hhi)
  · exact ⟨_, execRcLoadEnd_open hl, fun i => committedRc_getElem s i.val i.isLt⟩
  · exact (runCommand_rcLoadBegin arg s).trans (if_neg harg)
  · exact (runCommand_rcLoadEnd arg s).trans (if_neg harg)

/-! ### `rc_serialize()` (R206) -/

/-- Settles O46: a channel number is an index, and its two bytes are where `getElem?_rcSerialize` says. -/
theorem rcSerializeLayout : Obligations.RcSerializeLayout := by
  unfold Obligations.RcSerializeLayout
  exact fun s => ⟨length_rcSerialize s, fun i => getElem?_rcSerialize s (BitVec.ofFin i)⟩

end Sys2Proof.Machine
end

section
/-!
PROOFS. A whole load (43_rc_channels.md R207): what is staged after a list of values, and what its end commits.
-/

namespace Sys2Proof.Machine

variable {s : State}

/-- RC_STAGE once a list of values is staged over `old`: the first 16 values, then what was there. -/
def stagedValues (old : Vector Half 16) (vs : List Half) : Vector Half 16 :=
  Vector.ofFn fun i => vs[i.val]?.getD old[i]

theorem getElem_stagedValues (old : Vector Half 16) (vs : List Half) {i : Nat} (hi : i < 16) :
    (stagedValues old vs)[i] = vs[i]?.getD old[i] := by
  simp [stagedValues]

@[simp] theorem stagedValues_nil (old : Vector Half 16) : stagedValues old [] = old := by
  ext i hi : 1
  simp [getElem_stagedValues]

theorem stagedValues_concat_of_lt (old : Vector Half 16) {vs : List Half} (h : vs.length < 16) (v : Half) :
    stagedValues old (vs ++ [v]) = (stagedValues old vs).set vs.length v h := by
  ext i hi : 1
  rw [Vector.getElem_set, getElem_stagedValues, getElem_stagedValues]
  rcases Nat.lt_trichotomy i vs.length with hlt | rfl | hgt
  · rw [List.getElem?_append_left hlt, if_neg hlt.ne']
  · simp
  · rw [List.getElem?_eq_none (by simpa using hgt), List.getElem?_eq_none hgt.le, if_neg hgt.ne]

theorem stagedValues_concat_of_le (old : Vector Half 16) {vs : List Half} (h : 16 ≤ vs.length) (v : Half) :
    stagedValues old (vs ++ [v]) = stagedValues old vs := by
  ext i hi : 1
  rw [getElem_stagedValues, getElem_stagedValues, List.getElem?_append_left (hi.trans_le h)]

/-- The state of a load that began at `s`, once a list of values is staged: the count stops at 16 (R204). -/
def State.staged (s : State) (vs : List Half) : State :=
  { s with rcLoading := true, rcStage := stagedValues s.rcStage vs, rcLcnt := BitVec.ofNat 5 (min vs.length 16) }

theorem State.staged_rcLcnt_toNat (s : State) (vs : List Half) : (s.staged vs).rcLcnt.toNat = min vs.length 16 :=
  Nat.mod_eq_of_lt (by omega)

/-- One value more is staged, or is the 17th or a later one and dropped (R204). -/
theorem execRcLoadVal_staged (s : State) (vs : List Half) (v : Half) :
    execRcLoadVal v (s.staged vs) = .next (s.staged (vs ++ [v])) := by
  have hcount := s.staged_rcLcnt_toNat vs
  rcases Nat.lt_or_ge vs.length 16 with h | h
  · rw [Nat.min_eq_left h.le] at hcount
    rw [execRcLoadVal_stage v rfl (hcount ▸ h)]
    simp only [hcount]
    simp [State.staged, stagedValues_concat_of_lt _ h, Nat.succ_le_of_lt h]
  · rw [Nat.min_eq_right h] at hcount
    rw [execRcLoadVal_full v rfl hcount.ge]
    simp [State.staged, stagedValues_concat_of_le _ h, Nat.min_eq_right h, Nat.min_eq_right (Nat.le_succ_of_le h)]

theorem handleAll_loadVals (s : State) (vs : List Half) :
    handleAll (vs.map fun v => Event.cmd (Spec.word 0x32#8 (0#16 ++ v))) (s.staged []) = .next (s.staged vs) := by
  induction vs using List.reverseRecOn with
  | nil => rfl
  | append_singleton vs v ih =>
    rw [List.map_append, handleAll_append_next ih]
    exact handleAll_cons_next ((handle_rcLoadVal_word v _).trans (execRcLoadVal_staged s vs v)) []

/-- Begin, the values and end: RC takes what the values staged commit, and the load is closed (R207). -/
theorem handleAll_loadEvents (h : s.rcLoading = false) (vs : List Half) :
    handleAll (Spec.loadEvents vs) s =
      .next { s with rc := (s.staged vs).committedRc, rcStage := stagedValues s.rcStage vs, rcLcnt := 0#5 } := by
  have hbegin : handle (.cmd (Spec.word 0x31#8 0#32)) s = .next (s.staged []) := by
    rw [handle_rcLoadBegin_word, execRcLoadBegin_closed h]
    simp [State.staged]
  have hend := (handle_rcLoadEnd_word (s.staged vs)).trans (execRcLoadEnd_open rfl)
  rw [Spec.loadEvents, List.cons_append, handleAll_cons_next hbegin, handleAll_append_next (handleAll_loadVals s vs),
    handleAll_cons_next hend, ← h]
  rfl

/-- What a load of a list commits: its value at each channel it reaches, and 1500 above (R207). -/
theorem getElem_committedRc_staged (s : State) (vs : List Half) {i : Nat} (hi : i < 16) :
    (s.staged vs).committedRc[i] = if h : i < vs.length then vs[i] else 1500#16 := by
  rw [committedRc_getElem _ _ hi, s.staged_rcLcnt_toNat]
  by_cases h : i < vs.length
  · rw [if_pos (by omega), dif_pos h]
    simp [State.staged, getElem_stagedValues, h]
  · rw [if_neg (by omega), dif_neg h, rcCentre]

/-- Settles O45: the load commits the list, whatever RC and RC_STAGE held. -/
theorem clampOrPadLaw : Obligations.ClampOrPadLaw := by
  unfold Obligations.ClampOrPadLaw
  exact fun vs s h => ⟨_, _, handleAll_loadEvents h vs, fun i => getElem_committedRc_staged s vs i.isLt⟩

end Sys2Proof.Machine
end

section
/-!
PROOFS. Rejected commands (60_exceptions.md R233 to R235, R239): the state condition of its OP alone decides whether a
decoded command is rejected, and no event but Reset clears ILL.
-/

namespace Sys2Proof.Machine

variable {s : State}

/-! ### The state condition of each OP (R233) -/

/-- NOP, CRC_CLR, CRC_BYTE and RC_SET have no state condition (R235). -/
theorem stateCondition_eq_none {op : Byte} (h : op ∈ [Opcode.nop, Opcode.crcClr, Opcode.crcByte, Opcode.rcSet])
    (s : State) : Spec.stateCondition op s = none := by
  simp only [List.mem_cons, List.not_mem_nil, or_false] at h
  obtain rfl | rfl | rfl | rfl := h <;> rfl

theorem stateCondition_encStart (s : State) :
    Spec.stateCondition Opcode.encStart s = if s.encBusy = true then some .encoderBusy else none := by
  simp [Spec.stateCondition, Opcode.encStart]

theorem stateCondition_encData (s : State) :
    Spec.stateCondition Opcode.encData s = if s.encBusy = false then some .encoderIdle else none := by
  simp [Spec.stateCondition, Opcode.encData]

theorem stateCondition_encRc (s : State) :
    Spec.stateCondition Opcode.encRc s = if s.encBusy = true then some .encoderBusy else none := by
  simp [Spec.stateCondition, Opcode.encRc]

/-- R233 lists the active phases of R160. -/
theorem stateCondition_decStart (s : State) :
    Spec.stateCondition Opcode.decStart s = if s.decState.active = true then some .decoderBusy else none := by
  cases hs : s.decState <;> simp [Spec.stateCondition, Opcode.decStart, DecState.active, hs]

theorem stateCondition_rcLoadBegin (s : State) :
    Spec.stateCondition Opcode.rcLoadBegin s = if s.rcLoading = true then some .loadState else none := by
  simp [Spec.stateCondition, Opcode.rcLoadBegin]

theorem stateCondition_rcLoadVal (s : State) :
    Spec.stateCondition Opcode.rcLoadVal s = if s.rcLoading = false then some .loadState else none := by
  simp [Spec.stateCondition, Opcode.rcLoadVal]

theorem stateCondition_rcLoadEnd (s : State) :
    Spec.stateCondition Opcode.rcLoadEnd s = if s.rcLoading = false then some .loadState else none := by
  simp [Spec.stateCondition, Opcode.rcLoadEnd]

/-! ### The condition decides (R234, R235) -/

/-- The outcome `o` of a command with OP `op` is its rejection when the condition `cond` names a cause, and else a next
state with the ILL registers as they were. -/
def DecidedBy (s : State) (op : Byte) (cond : Option IllCause) (o : Host.Outcome State Fault Refusal) : Prop :=
  match cond with
  | some c => o = .next (s.raiseIllegal c op)
  | none => ∃ t, o = .next t ∧ IllKept s t

theorem decidedBy_ite {op : Byte} {p : Prop} [Decidable p] {c : IllCause} {o : Host.Outcome State Fault Refusal}
    (hrej : p → o = .next (s.raiseIllegal c op)) (hkept : ¬ p → ∃ t, o = .next t ∧ IllKept s t) :
    DecidedBy s op (if p then some c else none) o := by
  by_cases hp : p
  · rw [if_pos hp]
    exact hrej hp
  · rw [if_neg hp]
    exact hkept hp

/-- A legal ENC_START keeps the ILL registers, with or without a payload to come (R140). -/
theorem execEncStart_illKept (fid len : Half) (hb : s.encBusy = false) :
    ∃ t, execEncStart fid len s = .next t ∧ IllKept s t := by
  by_cases hl : len = 0#16
  · subst hl
    exact ⟨_, execEncStart_whole fid hb, rfl, rfl, rfl⟩
  · exact ⟨_, execEncStart_open fid hb hl, rfl, rfl, rfl⟩

/-- A legal ENC_DATA keeps the ILL registers, whether or not its byte is the last one (R141). -/
theorem execEncData_illKept (b : Byte) (hb : s.encBusy = true) : ∃ t, execEncData b s = .next t ∧ IllKept s t := by
  by_cases hr : s.encRemain = 1#16
  · exact ⟨_, execEncData_last b hb hr, rfl, rfl, rfl⟩
  · exact ⟨_, execEncData_more b hb hr, rfl, rfl, rfl⟩

/-- A legal RC_LOAD_VAL keeps the ILL registers, whether its value is staged or dropped (R204). -/
theorem execRcLoadVal_illKept (value : Half) (hl : s.rcLoading = true) :
    ∃ t, execRcLoadVal value s = .next t ∧ IllKept s t := by
  by_cases hc : s.rcLcnt.toNat < 16
  · exact ⟨_, execRcLoadVal_stage value hl hc, rfl, rfl, rfl⟩
  · exact ⟨_, execRcLoadVal_full value hl (by omega), rfl, rfl, rfl⟩

/-- The state condition of its OP decides what an instruction of the command port does. The frame rows have no command
word, so `h` leaves R97's eleven commands. -/
theorem exec_decidedBy {i : Instr} {w : CmdWord} (h : encode i = .command w) (s : State) :
    DecidedBy s (opField w) (Spec.stateCondition (opField w) s) (exec i s) := by
  cases i <;> cases h <;> rw [opField_commandWord]
  case nop | crcClr | crcByte | rcSet =>
    rw [stateCondition_eq_none (by simp)]
    exact ⟨_, rfl, rfl, rfl, rfl⟩
  case encStart fid len =>
    rw [stateCondition_encStart]
    exact decidedBy_ite (execEncStart_busy fid len) fun hb =>
      execEncStart_illKept fid len (Bool.eq_false_of_not_eq_true hb)
  case encData b =>
    rw [stateCondition_encData]
    exact decidedBy_ite (execEncData_idle b) fun hb => execEncData_illKept b (Bool.eq_true_of_not_eq_false hb)
  case encRc =>
    rw [stateCondition_encRc]
    exact decidedBy_ite execEncRc_busy fun hb => ⟨_, execEncRc_idle (Bool.eq_false_of_not_eq_true hb), rfl, rfl, rfl⟩
  case decStart fid =>
    rw [stateCondition_decStart]
    exact decidedBy_ite (execDecStart_active fid) fun ha =>
      ⟨_, execDecStart_inactive fid (Bool.eq_false_of_not_eq_true ha), rfl, rfl, rfl⟩
  case rcLoadBegin =>
    rw [stateCondition_rcLoadBegin]
    exact decidedBy_ite execRcLoadBegin_open fun hl =>
      ⟨_, execRcLoadBegin_closed (Bool.eq_false_of_not_eq_true hl), rfl, rfl, rfl⟩
  case rcLoadVal value =>
    rw [stateCondition_rcLoadVal]
    exact decidedBy_ite (execRcLoadVal_closed value) fun hl =>
      execRcLoadVal_illKept value (Bool.eq_true_of_not_eq_false hl)
  case rcLoadEnd =>
    rw [stateCondition_rcLoadEnd]
    exact decidedBy_ite execRcLoadEnd_closed fun hl =>
      ⟨_, execRcLoadEnd_open (Bool.eq_true_of_not_eq_false hl), rfl, rfl, rfl⟩

/-- Settles O7: a word that is not reserved runs its instruction, and the condition decides what that does. -/
theorem rejectionChangesOnlyIllRegisters : Obligations.RejectionChangesOnlyIllRegisters := by
  unfold Obligations.RejectionChangesOnlyIllRegisters
  intro w s hop hbits
  obtain ⟨-, -, hdecoded⟩ := reservedWordsRejectedInOrder w s
  obtain ⟨i, henc, hexec⟩ := hdecoded hop hbits
  have hdec : DecidedBy s (w.extractLsb' 32 8) (Spec.stateCondition (w.extractLsb' 32 8) s) (handle (.cmd w) s) :=
    hexec ▸ exec_decidedBy henc s
  constructor
  · intro c hc
    rwa [hc] at hdec
  · intro hc
    rw [hc] at hdec
    obtain ⟨t, ht, hill, hcause, hillOp⟩ := hdec
    exact ⟨t, ht, hill, hcause, hillOp⟩

/-! ### ILL is sticky (R42, R239) -/

/-- Settles O8, by what the event can do. -/
theorem illStickyUntilReset : Obligations.IllStickyUntilReset := by
  unfold Obligations.IllStickyUntilReset
  intro e s t he hill ht
  obtain ⟨w, -, heff⟩ | ⟨hreset, -⟩ | hm := handle_cases ht
  · exact cmdEffect_ill_kept heff hill
  · exact absurd hreset he
  · obtain ⟨-, -, hkept⟩ := decMoves_flags hm
    exact hkept.trans hill

end Sys2Proof.Machine
end

section
/-!
PROOFS. A corrupted response frame (70_reset_and_hazards.md R273): changing one byte that is not part of the length
leaves a response frame of the same payload length, and the CRC over region and trailing byte is no longer zero.
-/

namespace Sys2Proof.Machine

/-! ### One byte changed in a checked sequence (R124) -/

/-- A byte replaced by another value changes the checksum (R124 law 8). -/
theorem crc8_set_ne {l : List Byte} {i : Nat} (hi : i < l.length) {v : Byte} (hv : l[i]? ≠ some v) :
    crc8 (l.set i v) ≠ crc8 l := by
  have hne : v ≠ l[i] := by
    rintro rfl
    exact hv (List.getElem?_eq_getElem hi)
  have hsplit (a : Byte) : l.set i a = l.take i ++ a :: l.drop (i + 1) := by
    rw [List.set_eq_take_append_cons_drop, if_pos hi]
  have hcrc := crcDetectsSingleByteChange (l.take i) (l.drop (i + 1)) v l[i] hne
  rwa [← hsplit, ← hsplit, List.set_getElem_self] at hcrc

/-- A trailing byte matches exactly when the CRC over the region and that byte is zero (R124 laws 5 and 6). -/
theorem crc8_concat_eq_zero_iff (region : List Byte) (chk : Byte) :
    crc8 (region ++ [chk]) = 0x00#8 ↔ crc8 region = chk := by
  rw [crc8_concat, crc8Update_eq_zero_iff]

/-! ### One byte changed in a response frame (R80, R82) -/

@[simp] theorem length_responsePreamble : responsePreamble.length = 3 := rfl

/-- A response frame's parts: three bytes before the length field, and the payload with the trailing byte behind it. -/
theorem responseFrame_eq (flags : Byte) (fid : Half) (payload : List Byte) (chk : Byte) :
    responseFrame flags fid payload chk =
      responsePreamble ++ ([flags] ++ le16 fid) ++ le16 (BitVec.ofNat 16 payload.length) ++ (payload ++ [chk]) := by
  simp [responseFrame, frameRegion]

@[simp] theorem length_responseFrame (flags : Byte) (fid : Half) (payload : List Byte) (chk : Byte) :
    (responseFrame flags fid payload chk).length = payload.length + 9 := by
  simp [responseFrame_eq]
  omega

/-- Any three bytes before the length field, and any payload with a trailing byte, make a response frame. -/
theorem exists_responseFrame_of_parts {head tail : List Byte} {n : Nat} (hhead : head.length = 3)
    (htail : tail.length = n + 1) :
    ∃ flags fid payload chk, payload.length = n ∧
      responsePreamble ++ head ++ le16 (BitVec.ofNat 16 n) ++ tail = responseFrame flags fid payload chk := by
  obtain ⟨flags, lo, hi, rfl⟩ := List.length_eq_three.mp hhead
  obtain ⟨payload, chk, rfl, hlen⟩ := exists_concat_of_length htail
  refine ⟨flags, fromLe16 lo hi, payload, chk, hlen, ?_⟩
  rw [responseFrame_eq, le16_fromLe16, hlen]
  rfl

/-- A response frame with one byte of flags, id, payload or checksum changed is a response frame of the same length. -/
theorem set_responseFrame {k : Nat} {payload : List Byte}
    (hk : 3 ≤ k ∧ k < 6 ∨ 8 ≤ k ∧ k < 9 + payload.length) (flags chk v : Byte) (fid : Half) :
    ∃ flags' fid' payload' chk', payload'.length = payload.length ∧
      (responseFrame flags fid payload chk).set k v = responseFrame flags' fid' payload' chk' := by
  rw [responseFrame_eq]
  obtain ⟨hlo, hhi⟩ | ⟨hlo, hhi⟩ := hk
  · rw [List.set_append_left _ _ (by simp; omega),
      List.set_append_left _ _ (by simp; omega),
      List.set_append_right _ _ (by simpa using hlo)]
    exact exists_responseFrame_of_parts (by simp) (by simp)
  · rw [List.set_append_right _ _ (by simpa using hlo)]
    exact exists_responseFrame_of_parts (by simp) (by simp)

/-- When the trailing byte is the checksum, the trailing byte of the frame with one byte changed is not its checksum. -/
theorem crc8_frameRegion_ne_of_set {k : Nat} {payload payload' : List Byte} {flags flags' chk chk' v : Byte}
    {fid fid' : Half} (hchk : crc8 (frameRegion flags fid payload) = chk) (hlo : 3 ≤ k) (hhi : k < 9 + payload.length)
    (hv : (responseFrame flags fid payload chk)[k]? ≠ some v)
    (hset : (responseFrame flags fid payload chk).set k v = responseFrame flags' fid' payload' chk') :
    crc8 (frameRegion flags' fid' payload') ≠ chk' := by
  have hzero : crc8 ((responseFrame flags fid payload chk).drop 3) = 0x00#8 := (crc8_concat_eq_zero_iff _ _).mpr hchk
  have hdrop : (responseFrame flags' fid' payload' chk').drop 3 =
      ((responseFrame flags fid payload chk).drop 3).set (k - 3) v := by
    rw [← hset, List.drop_set, if_neg (by omega)]
  have hchanged : crc8 ((responseFrame flags' fid' payload' chk').drop 3) ≠ 0x00#8 := by
    rw [hdrop, ← hzero]
    refine crc8_set_ne (by simp; omega) ?_
    rwa [List.getElem?_drop, Nat.add_sub_cancel' hlo]
  exact fun h => hchanged ((crc8_concat_eq_zero_iff _ _).mpr h)

/-- Settles O35: O33 decodes the changed frame, whose trailing byte does not match. -/
theorem corruptedByteIsReported : Obligations.CorruptedByteIsReported := by
  unfold Obligations.CorruptedByteIsReported
  intro s expect fid flags v payload k hinact hx hlen hwf hk hv
  obtain ⟨flags', fid', payload', chk', hsame, hset⟩ :=
    set_responseFrame hk flags (crc8 (frameRegion flags fid payload)) v fid
  have hmismatch := crc8_frameRegion_ne_of_set rfl (by omega) (by omega) hv hset
  obtain ⟨t, ht, hs, -, -, -, hresp, -⟩ :=
    decodeYieldsResponseAfterNoise s expect fid' flags' chk' [] payload' [] hinact hx (hsame ▸ hlen) (by decide) hwf
  rw [List.nil_append, List.append_nil, ← hset] at ht
  rw [response_of_bodyComplete hs, Option.some.injEq, Response.mk.injEq] at hresp
  obtain ⟨-, -, -, -, -, hcrc, -, hstatus⟩ := hresp
  refine ⟨t, ht, hs, ?_, ?_⟩
  · rw [hcrc, decide_eq_false hmismatch]
  · rw [hstatus, decide_eq_false hmismatch, Bool.false_and]

end Sys2Proof.Machine
end

section
/-!
PROOFS. The frame in progress (70_reset_and_hazards.md R271): an event that is no ENC command and no Reset leaves ENC
and TX as they are.
-/

namespace Sys2Proof.Machine

open Relation

variable {s t : State}

/-- ENC's registers and TX are as before. -/
structure EncKept (s t : State) : Prop where
  encBusy : t.encBusy = s.encBusy
  encFid : t.encFid = s.encFid
  encLen : t.encLen = s.encLen
  encRemain : t.encRemain = s.encRemain
  encCrc : t.encCrc = s.encCrc
  tx : t.tx = s.tx

/-- A command that is not one of ENC's three keeps ENC and TX. -/
theorem cmdEffect_encKept {op : Byte} (he : CmdEffect s op t)
    (hop : op ∉ [Opcode.encStart, Opcode.encData, Opcode.encRc]) : EncKept s t := by
  cases he with
  | encWhole _ h | encOpen _ _ h | encLast _ h | encMore _ h | encRc h => exact absurd (by simp [h]) hop
  | _ => exact ⟨rfl, rfl, rfl, rfl, rfl, rfl⟩

/-- The decoder's moves keep ENC and TX. -/
theorem decMoves_encKept (hm : ReflTransGen DecMove s t) : EncKept s t := by
  obtain ⟨-, hbusy, hfid, hlen, hremain, hcrc, -, -, -, -, -, -, -, htx, -⟩ := decMoves_outsideDecUnchanged hm
  exact ⟨hbusy, hfid, hlen, hremain, hcrc, htx⟩

/-- Settles O23, by what the event can do. -/
theorem otherEventsKeepFrameInProgress : Obligations.OtherEventsKeepFrameInProgress := by
  unfold Obligations.OtherEventsKeepFrameInProgress
  intro e s t hreset hcmd ht
  have hkept : EncKept s t := by
    obtain ⟨w, hw, he⟩ | ⟨hr, -⟩ | hm := handle_cases ht
    · exact cmdEffect_encKept he (hcmd w hw)
    · exact absurd hr hreset
    · exact decMoves_encKept hm
  exact ⟨hkept.encBusy, hkept.encFid, hkept.encLen, hkept.encRemain, hkept.encCrc, hkept.tx⟩

end Sys2Proof.Machine
end

section
/-!
PROOFS. RC_SET and ENC_RC inside a load (70_reset_and_hazards.md R277): a load commits RC_STAGE alone and leaves RC as
it is until its end, so the commit does not read what RC_SET wrote, and ENC_RC does not read what is staged.
-/

namespace Sys2Proof.Machine

theorem handle_rcSet_word (index : BitVec 4) (value : Half) (s : State) :
    handle (.cmd (Spec.word 0x30#8 (0#12 ++ index ++ value))) s = .next (s.rcWrite index value) :=
  runCommand_rcSet 0#12 index value s

theorem handle_encRc_word (s : State) : handle (.cmd (Spec.word 0x12#8 0#32)) s = execEncRc s :=
  (runCommand_encRc 0#32 s).trans (if_pos rfl)

/-- Handling one event alone is handling the event. -/
theorem handleAll_singleton (e : Event) (s : State) : handleAll [e] s = handle e s := by
  rw [handleAll]
  cases handle e s <;> rfl

/-- The commit overwrites all of RC, so it is the same after a write to a channel. -/
theorem execRcLoadEnd_rcWrite {s : State} (h : s.rcLoading = true) (index : BitVec 4) (value : Half) :
    execRcLoadEnd (s.rcWrite index value) = execRcLoadEnd s := by
  rw [execRcLoadEnd_open h, execRcLoadEnd_open (s := s.rcWrite index value) h]
  rfl

/-- A load without its end has staged its values and left all else as it was. -/
theorem handleAll_openLoad {s : State} (h : s.rcLoading = false) (vs : List Half) :
    handleAll (Spec.loadEvents vs).dropLast s = .next (s.staged vs) := by
  have hbegin : handle (.cmd (Spec.word 0x31#8 0#32)) s = .next (s.staged []) := by
    rw [handle_rcLoadBegin_word, execRcLoadBegin_closed h]
    simp [State.staged]
  rw [Spec.loadEvents, List.dropLast_concat, handleAll_cons_next hbegin, handleAll_loadVals]

/-- ENC_RC does the same with values staged as without, and leaves them staged. -/
theorem execEncRc_staged (s : State) (vs : List Half) :
    execEncRc (s.staged vs) = Spec.mapNext (State.staged · vs) (execEncRc s) := by
  simp only [execEncRc, mapNext_ite, mapNext_next, State.staged, State.emit, State.rcSerialize]
  rfl

/-- Settles O48: RC_SET and RC_LOAD_END, and ENC_RC over a load that is still open. -/
theorem rcUpdatesDuringLoad : Obligations.RcUpdatesDuringLoad := by
  unfold Obligations.RcUpdatesDuringLoad
  constructor
  · intro index value s h
    rw [handleAll_cons_next (handle_rcSet_word index value s), handleAll_singleton, handle_rcLoadEnd_word,
      handle_rcLoadEnd_word, execRcLoadEnd_rcWrite h]
  · intro vs s t u h ht hu
    rw [handle_encRc_word] at hu
    have hrun : handle (.cmd (Spec.word 0x12#8 0#32)) (s.staged vs) = .next (u.staged vs) := by
      rw [handle_encRc_word, execEncRc_staged, hu, mapNext_next]
    rw [handleAll_append_next (handleAll_openLoad h vs), handleAll_cons_next hrun] at ht
    cases ht
    rfl

end Sys2Proof.Machine
end

section
/-!
PROOFS. Reset and power-on (70_reset_and_hazards.md R260, R262, R263).
-/

namespace Sys2Proof.Machine

/-- STATUS reads no stream and no schedule, so after Reset it is that of the reset state. -/
theorem resetEvent_status (s : State) : (resetEvent s).status = 0#32 := by
  change State.reset.status = 0#32
  decide

/-- Settles O53: the registers are those of the reset state, and TX and RX are kept. -/
theorem resetEventValues : Obligations.ResetEventValues := by
  unfold Obligations.ResetEventValues
  intro s
  have hhdr (i : Fin 8) : (resetEvent s).decHdr[i] = 0x00#8 := Vector.getElem_replicate i.isLt
  have hrc (i : Fin 16) : (resetEvent s).rc[i] = 1500#16 := Vector.getElem_replicate i.isLt
  exact ⟨resetEvent s, rfl, rfl, rfl, rfl, rfl, rfl, rfl, rfl, rfl, rfl, hhdr, rfl, rfl, rfl, rfl, rfl, rfl, rfl, rfl,
    rfl, rfl, rfl, hrc, rfl, rfl, rfl, rfl, rfl, resetEvent_status s, rfl, rfl⟩

/-- Settles O54: with the streams and the schedule empty, Reset keeps nothing of the state it falls in. -/
theorem powerOnIsResetState : Obligations.PowerOnIsResetState := by
  unfold Obligations.PowerOnIsResetState
  intro s
  rfl

end Sys2Proof.Machine
end
